-- ==== Sys2Proof/Word.lean ====
section
/-! DEFINITION. The word types of the block: 32-bit words (10_state.md R15, R17) and 8-bit fields (30_encoding.md R64). -/

namespace Sys2Proof

/-- A register or an operand word: 32 bits, unsigned (00_scope.md R10). -/
abbrev Word := BitVec 32

/-- An 8-bit field: a byte of the command word, `LP_CODE`, `LP_SLOT`. -/
abbrev Byte := BitVec 8

/-- One bit as a 32-bit word: 0 or 1. -/
def bitWord (b : Bool) : Word := if b then 1#32 else 0#32

end Sys2Proof
end

