-- ==== Sys2Proof/Syntax.lean ====
section
/-! DEFINITION. The fourteen operations (30_encoding.md R68), the three words of a command (R63), and the
names of channels, slots, gates, registers and fields (10_state.md R17, R38, R42). -/

namespace Sys2Proof

/-- The two timer channels (00_scope.md R6). -/
inductive Chan where
  | ch0
  | ch1
deriving DecidableEq, Repr

/-- The two converter slots, 0 is "A" and 1 is "B" (00_scope.md R8). -/
inductive Slot where
  | a
  | b
deriving DecidableEq, Repr

/-- The three clock-gate inputs (10_state.md R38). -/
inductive Gate where
  | tmr
  | adc
  | pin
deriving DecidableEq, Repr

/-- The nineteen registers (10_state.md R17). -/
inductive Reg where
  | tLoad (c : Chan)
  | tCtrl (c : Chan)
  | tFlag (c : Chan)
  | adSc (s : Slot)
  | adR (s : Slot)
  | adCfg
  | adTmo
  | cb
  | tick
  | duty
  | level
  | pinDo
  | lpCfg
  | status
deriving DecidableEq, Repr

/-- The thirty-five fields (10_state.md R42). -/
inductive Field where
  | tLoad (c : Chan)
  | tEn (c : Chan)
  | tIe (c : Chan)
  | tChn (c : Chan)
  | tIf (c : Chan)
  | adCh (s : Slot)
  | adDiff (s : Slot)
  | adIen (s : Slot)
  | adCoco (s : Slot)
  | adR (s : Slot)
  | adIclk
  | adMode
  | adSmplt
  | adDiv
  | adTmo
  | cb
  | tick
  | duty
  | outLevel
  | pin
  | lpCode
  | lpSlot
  | lpDiff
  | stLast
  | stErr
deriving DecidableEq, Repr

/-- The three configuration records of `INIT` (30_encoding.md R70). Index, slot and code are naturals
0..255; `WellFormed` holds the bound. -/
structure InitArgs where
  /-- `p_clk`: the clock source configuration reference is present. -/
  pClk : Bool
  /-- `p_slot`: the converter slot configuration reference is present. -/
  pSlot : Bool
  /-- `p_tmr`: the timer channel configuration reference is present. -/
  pTmr : Bool
  kIclk : BitVec 2
  kMode : BitVec 2
  kSmplt : Bool
  kDiv : BitVec 2
  sSlot : Nat
  sCode : Nat
  sDiff : Bool
  sIen : Bool
  tIndex : Nat
  tEnabled : Bool
  tChained : Bool
  tIe : Bool
  tLoad : Word
deriving DecidableEq, Repr

/-- The fourteen operations, one constructor for each row of spec/opcode_table.json. -/
inductive Instr where
  /-- `RALWR field, value`: `fid` is a field id, 0..255. -/
  | ralwr (fid : Nat) (value : Word)
  /-- `RALRD field`. -/
  | ralrd (fid : Nat)
  /-- `TCFG ch, load, chained, ie`. -/
  | tcfg (ch : Nat) (load : Word) (chained : Bool) (ie : Bool)
  /-- `TSTART ch`. -/
  | tstart (ch : Nat)
  /-- `TSTOP ch`. -/
  | tstop (ch : Nat)
  /-- `CBREG handle`. -/
  | cbreg (handle : Word)
  /-- `ADSEL slot, code, diff`. -/
  | adsel (slot : Nat) (code : Nat) (diff : Bool)
  /-- `ADWAIT slot`. -/
  | adwait (slot : Nat)
  /-- `ADREAD slot`. -/
  | adread (slot : Nat)
  /-- `DMAP v`. -/
  | dmap (v : Word)
  /-- `PWMUPD`. -/
  | pwmupd
  /-- `LOOPIT`. -/
  | loopit
  /-- `RUN`. -/
  | run
  /-- `INIT`. -/
  | init (args : InitArgs)
deriving DecidableEq, Repr

/-- A command: the command word and the two operand words, presented together (30_encoding.md R63). -/
structure Command where
  cw : Word
  arg0 : Word
  arg1 : Word
deriving DecidableEq, Repr

end Sys2Proof
end

