-- ==== Sys2Proof/WellFormed.lean ====
section
/-! DEFINITION. Which instructions an encoding exists for: the 8-bit operands `A` and `C` are in 0..255
(30_encoding.md R64, R69), and so is the slot byte `ARG0[15:8]` of `INIT` (R70). Whether an index or a code is
legal for the operation is the operation's own test (R76), not a matter of form. -/

namespace Sys2Proof

/-- The value fits the 8-bit fields of 30_encoding.md R64. -/
def fitsByte (n : Nat) : Bool := decide (n < 256)

/-- The instruction can be written as a command. -/
def Instr.wellFormed : Instr → Bool
  | .ralwr fid _ => fitsByte fid
  | .ralrd fid => fitsByte fid
  | .tcfg ch _ _ _ => fitsByte ch
  | .tstart ch => fitsByte ch
  | .tstop ch => fitsByte ch
  | .cbreg _ => true
  | .adsel slot code _ => fitsByte slot && fitsByte code
  | .adwait slot => fitsByte slot
  | .adread slot => fitsByte slot
  | .dmap _ => true
  | .pwmupd => true
  | .loopit => true
  | .run => true
  | .init a => fitsByte a.tIndex && fitsByte a.sSlot && fitsByte a.sCode

end Sys2Proof
end

