-- ==== Sys2Proof/Decode.lean ====
section
/-! DEFINITION. Decoding, total on any 96 bits (30_encoding.md R76), and the encoder beside it, both written from
the opcode map (R68), the formats (R67) and the operand layouts (R69, R70). -/

namespace Sys2Proof

/-- Why a command has no meaning. Each of the three gives the response `IllegalCommand` (30_encoding.md R72, R73). -/
inductive DecodeError where
  /-- `OP` is not in the opcode map (R72). -/
  | reservedOp
  /-- A bit that the format requires to be 0 is 1 (R73). -/
  | reservedBits
  /-- A 1 in `ARG0[7]` or `ARG0[31:16]` of `INIT` (R73). -/
  | reservedArg0
deriving DecidableEq, Repr

/-- The operation codes of the opcode map (30_encoding.md R68). -/
inductive Op where
  | ralwr | ralrd | tcfg | tstart | tstop | cbreg | adsel | adwait | adread | dmap | pwmupd | loopit | run | init
deriving DecidableEq, Repr

/-- The bits `CW[hi:lo]` as a natural (00_scope.md R10). -/
def bits (w : Word) (hi lo : Nat) : Nat := (w.toNat >>> lo) % 2 ^ (hi + 1 - lo)

/-- `OP` to operation (30_encoding.md R68); the other 242 values are reserved (R72). -/
def Op.ofCode : Nat → Option Op
  | 0x01 => some .ralwr
  | 0x02 => some .ralrd
  | 0x10 => some .tcfg
  | 0x11 => some .tstart
  | 0x12 => some .tstop
  | 0x13 => some .cbreg
  | 0x20 => some .adsel
  | 0x21 => some .adwait
  | 0x22 => some .adread
  | 0x30 => some .dmap
  | 0x31 => some .pwmupd
  | 0x32 => some .loopit
  | 0x33 => some .run
  | 0x34 => some .init
  | _ => none

/-- The column `mask` of the opcode map (30_encoding.md R68). -/
def Op.mask : Op → Word
  | .ralwr => 0xFF00FFFF#32
  | .ralrd => 0xFF00FFFF#32
  | .tcfg => 0xFF00FCFF#32
  | .tstart => 0xFF00FFFF#32
  | .tstop => 0xFF00FFFF#32
  | .cbreg => 0xFFFFFFFF#32
  | .adsel => 0xFF00FE00#32
  | .adwait => 0xFF00FFFF#32
  | .adread => 0xFF00FFFF#32
  | .dmap => 0xFFFFFFFF#32
  | .pwmupd => 0xFFFFFFFF#32
  | .loopit => 0xFFFFFFFF#32
  | .run => 0xFFFFFFFF#32
  | .init => 0xFF000000#32

/-- The column `match` of the opcode map (30_encoding.md R68). -/
def Op.pattern : Op → Word
  | .ralwr => 0x01000000#32
  | .ralrd => 0x02000000#32
  | .tcfg => 0x10000000#32
  | .tstart => 0x11000000#32
  | .tstop => 0x12000000#32
  | .cbreg => 0x13000000#32
  | .adsel => 0x20000000#32
  | .adwait => 0x21000000#32
  | .adread => 0x22000000#32
  | .dmap => 0x30000000#32
  | .pwmupd => 0x31000000#32
  | .loopit => 0x32000000#32
  | .run => 0x33000000#32
  | .init => 0x34000000#32

/-- `CW[23:16]`, the index operand `A` (30_encoding.md R64). -/
def fieldA (cw : Word) : Nat := bits cw 23 16

/-- `CW[7:0]`, the input channel code `C` (30_encoding.md R64). -/
def fieldC (cw : Word) : Nat := bits cw 7 0

/-- `F[k]`, which is `CW[8+k]` (30_encoding.md R64). -/
def flagBit (cw : Word) (k : Nat) : Bool := cw.getLsbD (8 + k)

/-- The operand layout of `INIT` (30_encoding.md R70). -/
def initArgsOf (c : Command) : InitArgs where
  pClk := flagBit c.cw 5
  pSlot := flagBit c.cw 6
  pTmr := flagBit c.cw 7
  kIclk := BitVec.ofNat 2 (bits c.arg0 1 0)
  kMode := BitVec.ofNat 2 (bits c.arg0 3 2)
  kSmplt := c.arg0.getLsbD 4
  kDiv := BitVec.ofNat 2 (bits c.arg0 6 5)
  sSlot := bits c.arg0 15 8
  sCode := fieldC c.cw
  sDiff := flagBit c.cw 3
  sIen := flagBit c.cw 4
  tIndex := fieldA c.cw
  tEnabled := flagBit c.cw 2
  tChained := flagBit c.cw 0
  tIe := flagBit c.cw 1
  tLoad := c.arg1

/-- The fields of the format, extracted (30_encoding.md R67, R69, R71; step 5 of R76). -/
def Op.operands (c : Command) : Op → Instr
  | .ralwr => .ralwr (fieldA c.cw) c.arg0
  | .ralrd => .ralrd (fieldA c.cw)
  | .tcfg => .tcfg (fieldA c.cw) c.arg0 (flagBit c.cw 0) (flagBit c.cw 1)
  | .tstart => .tstart (fieldA c.cw)
  | .tstop => .tstop (fieldA c.cw)
  | .cbreg => .cbreg c.arg0
  | .adsel => .adsel (fieldA c.cw) (fieldC c.cw) (flagBit c.cw 0)
  | .adwait => .adwait (fieldA c.cw)
  | .adread => .adread (fieldA c.cw)
  | .dmap => .dmap c.arg0
  | .pwmupd => .pwmupd
  | .loopit => .loopit
  | .run => .run
  | .init => .init (initArgsOf c)

/-- `ARG0[7]` and `ARG0[31:16]` must be 0 in `INIT` (30_encoding.md R70, R73). -/
def initReserved (arg0 : Word) : Bool := decide (arg0 &&& 0xFFFF0080#32 ≠ 0#32)

/-- The decoding procedure of 30_encoding.md R76. -/
def decode (c : Command) : Except DecodeError Instr :=
  match Op.ofCode (bits c.cw 31 24) with
  | none => .error .reservedOp
  | some op =>
    if c.cw &&& op.mask ≠ op.pattern then .error .reservedBits
    else if op = .init ∧ initReserved c.arg0 = true then .error .reservedArg0
    else .ok (op.operands c)

/-! ### The encoder -/

/-- `CW` from its four 8-bit fields (30_encoding.md R64; 95_test_vectors.md: `(OP << 24) or (A << 16) or (F << 8) or C`). -/
def packCw (op a f c : Nat) : Word :=
  BitVec.ofNat 32 (op % 256 * 2 ^ 24 + a % 256 * 2 ^ 16 + f % 256 * 2 ^ 8 + c % 256)

/-- The value of a flag at bit `k` of `F`. -/
def flagAt (b : Bool) (k : Nat) : Nat := if b then 2 ^ k else 0

/-- `F[7:0]` of `INIT` (30_encoding.md R70). -/
def initFlags (a : InitArgs) : Nat :=
  flagAt a.tChained 0 + flagAt a.tIe 1 + flagAt a.tEnabled 2 + flagAt a.sDiff 3 + flagAt a.sIen 4 +
    flagAt a.pClk 5 + flagAt a.pSlot 6 + flagAt a.pTmr 7

/-- `ARG0` of `INIT` (30_encoding.md R70). -/
def initArg0 (a : InitArgs) : Word :=
  BitVec.ofNat 32 (a.kIclk.toNat + a.kMode.toNat * 2 ^ 2 + flagAt a.kSmplt 4 + a.kDiv.toNat * 2 ^ 5 +
    a.sSlot % 256 * 2 ^ 8)

/-- The words of an instruction. An operand word the operation ignores is written 0 (30_encoding.md R65). -/
def encode : Instr → Command
  | .ralwr fid v => ⟨packCw 0x01 fid 0 0, v, 0#32⟩
  | .ralrd fid => ⟨packCw 0x02 fid 0 0, 0#32, 0#32⟩
  | .tcfg ch load chained ie => ⟨packCw 0x10 ch (flagAt chained 0 + flagAt ie 1) 0, load, 0#32⟩
  | .tstart ch => ⟨packCw 0x11 ch 0 0, 0#32, 0#32⟩
  | .tstop ch => ⟨packCw 0x12 ch 0 0, 0#32, 0#32⟩
  | .cbreg h => ⟨packCw 0x13 0 0 0, h, 0#32⟩
  | .adsel slot code diff => ⟨packCw 0x20 slot (flagAt diff 0) code, 0#32, 0#32⟩
  | .adwait slot => ⟨packCw 0x21 slot 0 0, 0#32, 0#32⟩
  | .adread slot => ⟨packCw 0x22 slot 0 0, 0#32, 0#32⟩
  | .dmap v => ⟨packCw 0x30 0 0 0, v, 0#32⟩
  | .pwmupd => ⟨packCw 0x31 0 0 0, 0#32, 0#32⟩
  | .loopit => ⟨packCw 0x32 0 0 0, 0#32, 0#32⟩
  | .run => ⟨packCw 0x33 0 0 0, 0#32, 0#32⟩
  | .init a => ⟨packCw 0x34 a.tIndex (initFlags a) a.sCode, initArg0 a, a.tLoad⟩

/-- The operations that use `ARG0` (30_encoding.md R67, R69, R70); the others ignore it (R65). -/
def usesArg0 : Instr → Bool
  | .ralwr _ _ => true
  | .ralrd _ => false
  | .tcfg _ _ _ _ => true
  | .tstart _ => false
  | .tstop _ => false
  | .cbreg _ => true
  | .adsel _ _ _ => false
  | .adwait _ => false
  | .adread _ => false
  | .dmap _ => true
  | .pwmupd => false
  | .loopit => false
  | .run => false
  | .init _ => true

/-- `ARG1` is used by `INIT` alone (30_encoding.md R67, R70). -/
def usesArg1 : Instr → Bool
  | .init _ => true
  | .ralwr _ _ => false
  | .ralrd _ => false
  | .tcfg _ _ _ _ => false
  | .tstart _ => false
  | .tstop _ => false
  | .cbreg _ => false
  | .adsel _ _ _ => false
  | .adwait _ => false
  | .adread _ => false
  | .dmap _ => false
  | .pwmupd => false
  | .loopit => false
  | .run => false

/-! ### The table's numbering -/

/-- The command whose bits are `w`, numbered as spec/opcode_table.json numbers them: `CW` is bits 31..0,
`ARG0` bits 63..32, `ARG1` bits 95..64; the bits from `nbits` on are 0. -/
def commandOfBits (nbits w : Nat) : Command where
  cw := BitVec.ofNat 32 (w % 2 ^ nbits)
  arg0 := BitVec.ofNat 32 (w % 2 ^ nbits / 2 ^ 32)
  arg1 := BitVec.ofNat 32 (w % 2 ^ nbits / 2 ^ 64)

/-- The instruction that the decoder reads from a table word. -/
def decodeTableWord (nbits w : Nat) : Option Instr :=
  match decode (commandOfBits nbits w) with
  | .ok i => some i
  | .error _ => none

end Sys2Proof
end

