-- ==== Sys2Proof/Config.lean ====
section
/-! DEFINITION. What an implementation fixes (00_scope.md R8, R9) and the one free value. -/

namespace Sys2Proof

/-- The constraints that 00_scope.md R9 puts on the parameters. A configuration that breaks one
cannot be built: this is how the model refuses `T_LOW >= T_HIGH` (45_cross_family_laws.md R177). -/
abbrev ConfigLegal (tLow tHigh diffChMax posRefCode : Nat) (resBits0 resBits1 resBits2 resBits3 : Nat)
    (cbTick : Word) : Prop :=
  tLow < tHigh ∧ tHigh ≤ 65535 ∧ diffChMax ≤ 23 ∧ (posRefCode = 29 ∨ posRefCode = 30) ∧
  (1 ≤ resBits0 ∧ resBits0 ≤ 16) ∧ (1 ≤ resBits1 ∧ resBits1 ≤ 16) ∧
  (1 ≤ resBits2 ∧ resBits2 ≤ 16) ∧ (1 ≤ resBits3 ∧ resBits3 ≤ 16) ∧ cbTick ≠ 0#32

/-- The implementation parameters that the source leaves open (00_scope.md R9), and `ACTIVE_LEVEL`
(R8; 43_control_loop.md R120 admits the other wiring too, DESIGN CHOICE, log 26). Every statement
about all states holds for every legal value of each. -/
structure Config where
  /-- `T_LOW`, the low-light threshold. -/
  tLow : Nat
  /-- `T_HIGH`, the high-light threshold. -/
  tHigh : Nat
  /-- `DIFF_CH_MAX`, the highest defined differential code. -/
  diffChMax : Nat
  /-- `POS_REF_CODE`, the reference code allowed in differential mode. -/
  posRefCode : Nat
  /-- `RES_BITS(0)`, bits of a result in resolution mode 0. -/
  resBits0 : Nat
  /-- `RES_BITS(1)`. -/
  resBits1 : Nat
  /-- `RES_BITS(2)`. -/
  resBits2 : Nat
  /-- `RES_BITS(3)`. -/
  resBits3 : Nat
  /-- `COCO_CLEAR_ON_READ`: does a result read clear the completion flag. -/
  cocoClearOnRead : Bool
  /-- `ALLOW_SPURIOUS`: may a dispatch start with the interrupt line low. -/
  allowSpurious : Bool
  /-- `TMO_RESET`, the reset value of `AD_TMO`. -/
  tmoReset : Word
  /-- `PIN_RESET`, the level of the pin after reset (1 is HIGH). -/
  pinReset : Bool
  /-- `CB_TICK`, the handle of the built-in tick handler. -/
  cbTick : Word
  /-- `ACTIVE_LEVEL`, the pin level that means active; LOW in the reference wiring. -/
  activeLevel : Bool
  legal : ConfigLegal tLow tHigh diffChMax posRefCode resBits0 resBits1 resBits2 resBits3 cbTick
deriving DecidableEq, Repr

/-- The defaults of 00_scope.md R9, "the spec's own choice for test vectors" (DESIGN CHOICE, log 5).
R9 gives no default for `RES_BITS` of modes 1 to 3 and none for `COCO_CLEAR_ON_READ`: log 6. -/
def Config.default : Config where
  tLow := 100
  tHigh := 200
  diffChMax := 3
  posRefCode := 29
  resBits0 := 8
  resBits1 := 16
  resBits2 := 16
  resBits3 := 16
  cocoClearOnRead := false
  allowSpurious := true
  tmoReset := 0x0000FFFF#32
  pinReset := true
  cbTick := 0x00000001#32
  activeLevel := false
  legal := by decide

/-- The free value of a result read before its conversion has completed: "any 16-bit value"
(42_conversion_sequencer.md R108, 00_scope.md R11 `any_16()`), the `n`-th draw (log 9). -/
opaque Config.freeSample : Nat → BitVec 16

end Sys2Proof
end

