-- ==== Sys2Proof/Machine/State.lean ====
section
/-! DEFINITION. The state of the block (10_state.md), the outside world's choices still to come, the reasons a
step can stop, and the state after reset (10_state.md R42, 70_reset_and_hazards.md R157 to R160). -/

namespace Sys2Proof.Machine

open Sys2Proof

/-- The status codes 0 to 6 (60_exceptions.md R131). -/
inductive Status where
  | ok
  | invalidChannelIndex
  | invalidInputChannelCode
  | nullConfiguration
  | conversionTimeout
  | invalidFieldValue
  | illegalCommand
deriving DecidableEq, Repr

/-- Why the machine stops. -/
inductive Fault where
  /-- An access to a register whose clock gate is 0 (20_memory.md R62): raised by the commands and by the
  dispatch. Safe: the spec gives the access no value, and the model stops where the target's behaviour is
  undefined. -/
  | ungatedAccess (g : Gate)
deriving DecidableEq, Repr

/-- Why an instruction has no meaning. -/
inductive Refusal where
  /-- Raised by `exec` for an instruction not modelled yet. Safe: the model stops. No arm of this model
  raises it. -/
  | notModelled (mnemonic : String)
deriving DecidableEq, Repr

/-- Timer channel state (10_state.md R18 to R22). -/
structure TimerChannel where
  /-- `T_LOAD[c]` -/
  load : Word
  /-- `T_EN[c]`: 0 is `Stopped`, 1 is `Running`. -/
  en : Bool
  /-- `T_IE[c]` -/
  ie : Bool
  /-- `T_CHN[c]` -/
  chn : Bool
  /-- `T_IF[c]`, the interrupt flag. -/
  flag : Bool
deriving DecidableEq, Repr

/-- Converter slot state (10_state.md R23 to R27) and `conv[s]` (R37). -/
structure ConvSlot where
  /-- `AD_CH[s]` -/
  ch : BitVec 5
  /-- `AD_DIFF[s]` -/
  diff : Bool
  /-- `AD_IEN[s]` -/
  ien : Bool
  /-- `AD_COCO[s]`, the completion flag. -/
  coco : Bool
  /-- `AD_R[s]` -/
  result : BitVec 16
  /-- `conv[s] = Busy` -/
  busy : Bool
deriving DecidableEq, Repr

/-- A micro-step of one loop iteration (43_control_loop.md R121, R122), with the temporaries read so far
(`s`, `c`, `m`, `s1`, `s2`, `v`, `bound`, `left`; 60_exceptions.md R148). -/
inductive LoopPos where
  /-- Line 0: the reads of `LPCFG`. -/
  | line0
  /-- Line 1, micro-step 1 of `ADSEL(s, c, m)`: the slot test and the mode bit. -/
  | select (s : Byte) (c : Byte) (m : Bool)
  /-- Line 1, micro-step 2 of `ADSEL`: the code, which starts the conversion. -/
  | code (s : Slot) (c : Byte) (m : Bool)
  /-- Line 1, the first poll of `ADWAIT(s)`, which reads `AD_TMO`. -/
  | wait (s : Slot) (s1 : Status)
  /-- Line 1, a later poll. -/
  | poll (s : Slot) (s1 : Status) (bound : Word) (left : Word)
  /-- Line 2: `ADREAD(s)`. -/
  | read (s : Slot) (s1 : Status)
  /-- Line 3: the `DUTY` write; `v` counts only if `s2` is `OK`. -/
  | duty (s1 : Status) (s2 : Status) (v : Word)
  /-- Line 4: the read of `TICK` and the comparison; `st` is the iteration's status (R124). -/
  | compare (st : Status)
  /-- Line 5: the pin. -/
  | drive (st : Status)
deriving DecidableEq, Repr

/-- A micro-step of `INIT` after line 0 (43_control_loop.md R127), with the statuses so far. -/
inductive InitPos where
  /-- `AD_ICLK`. -/
  | line1
  /-- `AD_DIV`. -/
  | line2
  /-- `AD_MODE`. -/
  | line3
  /-- `AD_SMPLT`. -/
  | line4
  /-- `AD_IEN`, if the slot is valid. -/
  | line5
  /-- `LPCFG`. -/
  | line6
  /-- Line 7, micro-step 1 of `ADSEL`. -/
  | select
  /-- Line 7, micro-step 2 of `ADSEL`. -/
  | code (s : Slot)
  /-- Line 8, micro-step 1 of `TCFG`: the index test and the load value. -/
  | load (s1 : Status)
  /-- Line 8, micro-step 2 of `TCFG`. -/
  | chain (c : Chan) (s1 : Status)
  /-- Line 8, micro-step 3 of `TCFG`. -/
  | arm (c : Chan) (s1 : Status)
  /-- Line 9: `TSTART` or `TSTOP`, if the index is valid. -/
  | runState (s1 : Status) (s2 : Status)
  /-- Line 10: the callback. -/
  | callback (s1 : Status) (s2 : Status)
deriving DecidableEq, Repr

/-- The `k` of `Exec(op, k)` (10_state.md R36). The operation is the one in the latched `CW`. -/
inductive Micro where
  /-- `k = 1`, where acceptance puts every operation (30_encoding.md R63). -/
  | first
  /-- `TCFG`, micro-step 2 (41_timer_scheduler.md R90). -/
  | tcfgChain
  /-- `TCFG`, micro-step 3. -/
  | tcfgArm
  /-- `TCFG`, the response, which a dispatch may come before (41_timer_scheduler.md R90 c). -/
  | tcfgRespond
  /-- `ADSEL`, micro-step 2 (42_conversion_sequencer.md R100). -/
  | adselCode
  /-- `ADWAIT`, a poll after the first (42_conversion_sequencer.md R104). -/
  | adwaitPoll (bound : Word) (left : Word)
  /-- `PWMUPD`, micro-step 2 (43_control_loop.md R119). -/
  | pwmPin
  /-- `LOOPIT` after line 0. -/
  | loop (p : LoopPos)
  /-- `INIT` after line 0. -/
  | init (p : InitPos)
deriving DecidableEq, Repr

/-- `bg`, the position of the background context (10_state.md R36). -/
inductive Bg where
  | idle
  | exec (k : Micro)
  | run (k : LoopPos)
deriving DecidableEq, Repr

/-- `isr`, the position of the interrupt context: `None` or `Disp(k, f0, f1, h)` with what has been read so
far (10_state.md R37; the lines are those of 60_exceptions.md R141). -/
inductive Isr where
  /-- `None`: not in interrupt context. -/
  | none
  /-- Line 1 is next: read `T0_FLAG`. -/
  | line1
  /-- Line 2 is next: read `T1_FLAG`. -/
  | line2 (f0 : Bool)
  /-- Line 3 is next. -/
  | line3 (f0 f1 : Bool)
  /-- Line 4 is next. -/
  | line4 (f0 f1 : Bool)
  /-- Line 5 is next: on a spurious firing, its first write. -/
  | line5 (f0 f1 : Bool)
  /-- The second write of line 5 is next (60_exceptions.md R142). -/
  | line5b
  /-- Line 6 is next: read `CB`, invoke. -/
  | line6
  /-- `CallbackInvoke(h)` has been emitted; the host's handler has not returned (60_exceptions.md R145). -/
  | waiting (h : Word)
  /-- Line 7 is next: the return. -/
  | line7
deriving DecidableEq, Repr

/-- One turn of one agent (00_scope.md R12): what happens between two micro-steps, or which context performs
its next micro-step (20_memory.md R55). A turn that is not enabled changes nothing (log 1, log 16). -/
inductive Turn where
  /-- The background context performs one micro-step, or the command port accepts a command. -/
  | background
  /-- The interrupt context starts a dispatch if the line is high, or performs one micro-step of it. -/
  | interrupt
  /-- The event `Spurious` (60_exceptions.md R140). -/
  | spurious
  /-- The event `TimerExpire(c)` (60_exceptions.md R137). -/
  | timerExpire (c : Chan)
  /-- The event `ConvComplete(s, x)` (42_conversion_sequencer.md R110). -/
  | convComplete (s : Slot) (x : BitVec 16)
  /-- The host's handler returns (60_exceptions.md R145). -/
  | handlerReturn
  /-- The host changes a clock gate (60_exceptions.md R156). -/
  | setGate (g : Gate) (v : Bool)
  /-- The reset event (70_reset_and_hazards.md R157). -/
  | powerCycle
deriving DecidableEq, Repr

/-- The state of the block: every field of 10_state.md R42, the command port (R15), the hidden state (R36,
R37), the gate inputs (R38), and the outside world's choices still to come. -/
structure State where
  /-- The implementation parameters (00_scope.md R9); no step changes them. -/
  cfg : Config
  /-- `GATE_TMR`, owned by the host. -/
  gateTmr : Bool
  /-- `GATE_ADC`, owned by the host. -/
  gateAdc : Bool
  /-- `GATE_PIN`, owned by the host. -/
  gatePin : Bool
  /-- `CW`, latched at acceptance. -/
  cw : Word
  /-- `ARG0`, latched at acceptance. -/
  arg0 : Word
  /-- `ARG1`, latched at acceptance. -/
  arg1 : Word
  /-- The response value `STATUS` (30_encoding.md R66), not the register of that name. -/
  rspStatus : BitVec 4
  /-- The response value `RDATA`. -/
  rspData : Word
  /-- Timer channel 0. -/
  tmr0 : TimerChannel
  /-- Timer channel 1. -/
  tmr1 : TimerChannel
  /-- Converter slot 0, "A". -/
  adA : ConvSlot
  /-- Converter slot 1, "B". -/
  adB : ConvSlot
  /-- `AD_ICLK` -/
  adIclk : BitVec 2
  /-- `AD_MODE` -/
  adMode : BitVec 2
  /-- `AD_SMPLT` -/
  adSmplt : Bool
  /-- `AD_DIV` -/
  adDiv : BitVec 2
  /-- `AD_TMO` -/
  adTmo : Word
  /-- `CB`, the callback slot. -/
  cb : Word
  /-- `TICK` -/
  tick : BitVec 7
  /-- `DUTY` -/
  duty : BitVec 7
  /-- `OUT_LEVEL`: 1 is HIGH. -/
  outLevel : Bool
  /-- `PIN`: 1 is HIGH. -/
  pin : Bool
  /-- `LP_CODE` -/
  lpCode : Byte
  /-- `LP_SLOT` -/
  lpSlot : Byte
  /-- `LP_DIFF` -/
  lpDiff : Bool
  /-- `ST_LAST` -/
  stLast : BitVec 4
  /-- `ST_ERR` -/
  stErr : BitVec 7
  /-- The position of the background context. -/
  bg : Bg
  /-- The position of the interrupt context. -/
  isr : Isr
  /-- The commands the host has yet to present, oldest first (log 3). -/
  commands : List Command
  /-- The turns still to come, the next one first (log 1). -/
  turns : List Turn
  /-- How many free values have been drawn (the model's own field, log 9). -/
  draws : Nat
deriving DecidableEq, Repr

namespace State

/-- The channel of an index. -/
def timer (c : Chan) (s : State) : TimerChannel :=
  match c with
  | .ch0 => s.tmr0
  | .ch1 => s.tmr1

/-- Replace the state of a channel. -/
def setTimer (c : Chan) (t : TimerChannel) (s : State) : State :=
  match c with
  | .ch0 => { s with tmr0 := t }
  | .ch1 => { s with tmr1 := t }

/-- The slot of an index. -/
def conv (sl : Slot) (s : State) : ConvSlot :=
  match sl with
  | .a => s.adA
  | .b => s.adB

/-- Replace the state of a slot. -/
def setConv (sl : Slot) (v : ConvSlot) (s : State) : State :=
  match sl with
  | .a => { s with adA := v }
  | .b => { s with adB := v }

/-- The level of a clock-gate input (10_state.md R38). -/
def gate (g : Gate) (s : State) : Bool :=
  match g with
  | .tmr => s.gateTmr
  | .adc => s.gateAdc
  | .pin => s.gatePin

/-- The host sets a clock-gate input (60_exceptions.md R156). -/
def setGate (g : Gate) (v : Bool) (s : State) : State :=
  match g with
  | .tmr => { s with gateTmr := v }
  | .adc => { s with gateAdc := v }
  | .pin => { s with gatePin := v }

end State

/-- Channel state after reset (10_state.md R42). -/
def TimerChannel.reset : TimerChannel where
  load := 0#32
  en := false
  ie := false
  chn := false
  flag := false

/-- Slot state after reset (10_state.md R42, 70_reset_and_hazards.md R159). -/
def ConvSlot.reset : ConvSlot where
  ch := 31#5
  diff := false
  ien := false
  coco := false
  result := 0#16
  busy := false

/-- The state after reset under a given configuration, with the clock gates at the host's levels and nothing
presented: the `reset` column of 10_state.md R42, and 70_reset_and_hazards.md R158 to R160. The five
command-port registers have no value in the spec (R44, R160): 0 here (DESIGN CHOICE, log 8). -/
def State.resetWith (cfg : Config) (gTmr gAdc gPin : Bool) : State where
  cfg := cfg
  gateTmr := gTmr
  gateAdc := gAdc
  gatePin := gPin
  cw := 0#32
  arg0 := 0#32
  arg1 := 0#32
  rspStatus := 0#4
  rspData := 0#32
  tmr0 := TimerChannel.reset
  tmr1 := TimerChannel.reset
  adA := ConvSlot.reset
  adB := ConvSlot.reset
  adIclk := 0#2
  adMode := 0#2
  adSmplt := false
  adDiv := 0#2
  adTmo := cfg.tmoReset
  cb := 0#32
  tick := 0#7
  duty := 0#7
  outLevel := cfg.pinReset
  pin := cfg.pinReset
  lpCode := 31#8
  lpSlot := 0#8
  lpDiff := false
  stLast := 0#4
  stErr := 0#7
  bg := .idle
  isr := .none
  commands := []
  turns := []
  draws := 0

/-- The machine right after reset: the default parameters of 00_scope.md R9 (log 5) and the clock gates 0,
"the safe premise" of 70_reset_and_hazards.md R160 (log 7). -/
def State.reset : State := State.resetWith Config.default false false false

end Sys2Proof.Machine
end

