-- ==== Sys2Proof/Machine/Flags.lean ====
section
/-! DEFINITION. Status codes and the two status fields (60_exceptions.md R131, R133; 10_state.md R41), the interrupt
line (60_exceptions.md R138) and the output signals (10_state.md R39). -/

namespace Sys2Proof.Machine

open Sys2Proof

/-- The number of a status code (60_exceptions.md R131). -/
def statusCode : Status → Nat
  | .ok => 0
  | .invalidChannelIndex => 1
  | .invalidInputChannelCode => 2
  | .nullConfiguration => 3
  | .conversionTimeout => 4
  | .invalidFieldValue => 5
  | .illegalCommand => 6

/-- The bit of `ST_ERR` that a status code sets: bit `k` for code `k` in 1..6, none for `OK` (60_exceptions.md R133). -/
def stickyBit (st : Status) : BitVec 7 :=
  if st = .ok then 0#7 else BitVec.ofNat 7 (2 ^ statusCode st)

/-- An operation or an internal stage produces a status: `ST_ERR[k] <- 1` (60_exceptions.md R133). -/
def note (st : Status) (s : State) : State := { s with stErr := s.stErr ||| stickyBit st }

/-- The interrupt line (60_exceptions.md R138): level-sensitive, the OR over the channels of flag and enable. -/
def irqLine (s : State) : Bool := (s.tmr0.flag && s.tmr0.ie) || (s.tmr1.flag && s.tmr1.ie)

/-- The output `fault`: some bit of `ST_ERR` is 1 (10_state.md R39, 60_exceptions.md R133). -/
def faultOut (s : State) : Bool := decide (s.stErr ≠ 0#7)

/-- The output `adc_irq` (10_state.md R39). -/
def adcIrqOut (s : State) : Bool := (s.adA.coco && s.adA.ien) || (s.adB.coco && s.adB.ien)

/-- The output `pin_out`, always equal to `PIN` (10_state.md R39). -/
def pinOut (s : State) : Bool := s.pin

/-- The handle of a `CallbackInvoke` that has been emitted and not yet answered (60_exceptions.md R145). -/
def callbackEvent (s : State) : Option Word :=
  match s.isr with
  | .waiting h => some h
  | _ => none

end Sys2Proof.Machine
end

