-- ==== Sys2Proof/Machine/Operands.lean ====
section
/-! DEFINITION. Operand forms: channel and slot indices, field ids, the field table of 10_state.md R42 with its
registers (R17), legal values, and the channel-code function `resolve` (42_conversion_sequencer.md R98). -/

namespace Sys2Proof.Machine

open Sys2Proof

/-- The index test "in {0, 1}" for a timer channel (60_exceptions.md R131). -/
def chanOf : Nat → Option Chan
  | 0 => some .ch0
  | 1 => some .ch1
  | _ => none

/-- The slot test "in {0, 1}" (60_exceptions.md R131). -/
def slotOf : Nat → Option Slot
  | 0 => some .a
  | 1 => some .b
  | _ => none

/-- The column `acc` of 10_state.md R42. -/
inductive Access where
  /-- Read and write. -/
  | rw
  /-- Read-only to commands. -/
  | ro
  /-- Read; write 1 clears, write 0 keeps. -/
  | w1c
deriving DecidableEq, Repr

/-- `lookup(fid)` (40_ral.md R82): the field of an id (10_state.md R42, 30_encoding.md R71). -/
def fieldOf : Nat → Option Field
  | 0x00 => some (.tLoad .ch0)
  | 0x01 => some (.tEn .ch0)
  | 0x02 => some (.tIe .ch0)
  | 0x03 => some (.tChn .ch0)
  | 0x04 => some (.tIf .ch0)
  | 0x10 => some (.tLoad .ch1)
  | 0x11 => some (.tEn .ch1)
  | 0x12 => some (.tIe .ch1)
  | 0x13 => some (.tChn .ch1)
  | 0x14 => some (.tIf .ch1)
  | 0x20 => some (.adCh .a)
  | 0x21 => some (.adDiff .a)
  | 0x22 => some (.adIen .a)
  | 0x23 => some (.adCoco .a)
  | 0x24 => some (.adR .a)
  | 0x30 => some (.adCh .b)
  | 0x31 => some (.adDiff .b)
  | 0x32 => some (.adIen .b)
  | 0x33 => some (.adCoco .b)
  | 0x34 => some (.adR .b)
  | 0x40 => some .adIclk
  | 0x41 => some .adMode
  | 0x42 => some .adSmplt
  | 0x43 => some .adDiv
  | 0x44 => some .adTmo
  | 0x50 => some .cb
  | 0x51 => some .tick
  | 0x52 => some .duty
  | 0x53 => some .outLevel
  | 0x60 => some .pin
  | 0x70 => some .lpCode
  | 0x71 => some .lpSlot
  | 0x72 => some .lpDiff
  | 0x80 => some .stLast
  | 0x81 => some .stErr
  | _ => none

/-- `reg(f)`: the column `register` of 10_state.md R42. -/
def fieldReg : Field → Reg
  | .tLoad c => .tLoad c
  | .tEn c => .tCtrl c
  | .tIe c => .tCtrl c
  | .tChn c => .tCtrl c
  | .tIf c => .tFlag c
  | .adCh s => .adSc s
  | .adDiff s => .adSc s
  | .adIen s => .adSc s
  | .adCoco s => .adSc s
  | .adR s => .adR s
  | .adIclk => .adCfg
  | .adMode => .adCfg
  | .adSmplt => .adCfg
  | .adDiv => .adCfg
  | .adTmo => .adTmo
  | .cb => .cb
  | .tick => .tick
  | .duty => .duty
  | .outLevel => .level
  | .pin => .pinDo
  | .lpCode => .lpCfg
  | .lpSlot => .lpCfg
  | .lpDiff => .lpCfg
  | .stLast => .status
  | .stErr => .status

/-- `off(f)`: the low bit number of the column `bits` of 10_state.md R42. -/
def fieldOff : Field → Nat
  | .tLoad _ => 0
  | .tEn _ => 0
  | .tIe _ => 1
  | .tChn _ => 2
  | .tIf _ => 0
  | .adCh _ => 0
  | .adDiff _ => 5
  | .adIen _ => 6
  | .adCoco _ => 7
  | .adR _ => 0
  | .adIclk => 0
  | .adMode => 2
  | .adSmplt => 4
  | .adDiv => 5
  | .adTmo => 0
  | .cb => 0
  | .tick => 0
  | .duty => 0
  | .outLevel => 0
  | .pin => 0
  | .lpCode => 0
  | .lpSlot => 8
  | .lpDiff => 16
  | .stLast => 0
  | .stErr => 8

/-- The width of a field: the column `bits` of 10_state.md R42. -/
def fieldWidth : Field → Nat
  | .tLoad _ => 32
  | .tEn _ => 1
  | .tIe _ => 1
  | .tChn _ => 1
  | .tIf _ => 1
  | .adCh _ => 5
  | .adDiff _ => 1
  | .adIen _ => 1
  | .adCoco _ => 1
  | .adR _ => 16
  | .adIclk => 2
  | .adMode => 2
  | .adSmplt => 1
  | .adDiv => 2
  | .adTmo => 32
  | .cb => 32
  | .tick => 7
  | .duty => 7
  | .outLevel => 1
  | .pin => 1
  | .lpCode => 8
  | .lpSlot => 8
  | .lpDiff => 1
  | .stLast => 4
  | .stErr => 7

/-- The column `acc` of 10_state.md R42. -/
def fieldAcc : Field → Access
  | .tIf _ => .w1c
  | .stErr => .w1c
  | .adCoco _ => .ro
  | .adR _ => .ro
  | .tick => .ro
  | .outLevel => .ro
  | .stLast => .ro
  | .tLoad _ => .rw
  | .tEn _ => .rw
  | .tIe _ => .rw
  | .tChn _ => .rw
  | .adCh _ => .rw
  | .adDiff _ => .rw
  | .adIen _ => .rw
  | .adIclk => .rw
  | .adMode => .rw
  | .adSmplt => .rw
  | .adDiv => .rw
  | .adTmo => .rw
  | .cb => .rw
  | .duty => .rw
  | .pin => .rw
  | .lpCode => .rw
  | .lpSlot => .rw
  | .lpDiff => .rw

/-- The column `legal` of 10_state.md R42, tested on the whole operand before any masking (40_ral.md R85). Every
set is an initial segment of the naturals; a read-only field accepts no value. -/
def fieldLegal (f : Field) (v : Word) : Bool :=
  match fieldAcc f with
  | .ro => false
  | .rw => if f = .duty then decide (v.toNat ≤ 100) else decide (v.toNat < 2 ^ fieldWidth f)
  | .w1c => decide (v.toNat < 2 ^ fieldWidth f)

/-- The slot whose `AD_CH` a field is, if it is one: the fields whose write starts a conversion
(20_memory.md R53 b). -/
def startsConversion : Field → Option Slot
  | .adCh s => some s
  | _ => none

/-- The column `gate` of 10_state.md R17. -/
def regGate : Reg → Option Gate
  | .tLoad _ => some .tmr
  | .tCtrl _ => some .tmr
  | .tFlag _ => some .tmr
  | .adSc _ => some .adc
  | .adR _ => some .adc
  | .adCfg => some .adc
  | .pinDo => some .pin
  | .adTmo => none
  | .cb => none
  | .tick => none
  | .duty => none
  | .level => none
  | .lpCfg => none
  | .status => none

/-- The column `offset` of 10_state.md R17; a name for the debug view, no operand of any operation (20_memory.md R47). -/
def regOffset : Reg → Nat
  | .tLoad .ch0 => 0x00
  | .tCtrl .ch0 => 0x04
  | .tFlag .ch0 => 0x08
  | .tLoad .ch1 => 0x10
  | .tCtrl .ch1 => 0x14
  | .tFlag .ch1 => 0x18
  | .adSc .a => 0x20
  | .adSc .b => 0x24
  | .adR .a => 0x28
  | .adR .b => 0x2C
  | .adCfg => 0x30
  | .adTmo => 0x34
  | .cb => 0x40
  | .tick => 0x44
  | .duty => 0x48
  | .level => 0x4C
  | .pinDo => 0x50
  | .lpCfg => 0x54
  | .status => 0x58

/-- The nineteen registers in the order of their offsets (10_state.md R17). -/
def allRegs : List Reg :=
  [.tLoad .ch0, .tCtrl .ch0, .tFlag .ch0, .tLoad .ch1, .tCtrl .ch1, .tFlag .ch1,
   .adSc .a, .adSc .b, .adR .a, .adR .b, .adCfg, .adTmo,
   .cb, .tick, .duty, .level, .pinDo, .lpCfg, .status]

/-- The fields of a register (10_state.md R42). -/
def regFields : Reg → List Field
  | .tLoad c => [.tLoad c]
  | .tCtrl c => [.tEn c, .tIe c, .tChn c]
  | .tFlag c => [.tIf c]
  | .adSc s => [.adCh s, .adDiff s, .adIen s, .adCoco s]
  | .adR s => [.adR s]
  | .adCfg => [.adIclk, .adMode, .adSmplt, .adDiv]
  | .adTmo => [.adTmo]
  | .cb => [.cb]
  | .tick => [.tick]
  | .duty => [.duty]
  | .level => [.outLevel]
  | .pinDo => [.pin]
  | .lpCfg => [.lpCode, .lpSlot, .lpDiff]
  | .status => [.stLast, .stErr]

/-- `resolve(code, diff)` (42_conversion_sequencer.md R98). -/
def resolve (cfg : Config) (code : Nat) (diff : Bool) : Nat :=
  if code > 31 then 31
  else if code = 24 ∨ code = 25 ∨ code = 28 then 31
  else if diff = false then code
  else if code ≤ cfg.diffChMax then code
  else if code = 26 ∨ code = 27 ∨ code = cfg.posRefCode then code
  else 31

end Sys2Proof.Machine
end

