-- ==== Sys2Proof/Machine/Ops.lean ====
section
/-! DEFINITION. The named operations over the registers: field storage, `RegRead`, `RegWrite`, `FieldRead`,
`FieldWrite` (00_scope.md R11, 10_state.md R40), the clock-gate test (20_memory.md R62), the start of a conversion
(42_conversion_sequencer.md R103), the response (30_encoding.md R66), and the entry to and the return from the
interrupt context (60_exceptions.md R148, R149). -/

namespace Sys2Proof.Machine

open Sys2Proof

/-- `mask(f)`: `2^width - 1` (10_state.md R42). -/
def maskOf (w : Nat) : Word := BitVec.ofNat 32 (2 ^ w - 1)

/-- The stored value of a field, extended with zero bits. -/
def getField (f : Field) (s : State) : Word :=
  match f with
  | .tLoad c => (s.timer c).load
  | .tEn c => bitWord (s.timer c).en
  | .tIe c => bitWord (s.timer c).ie
  | .tChn c => bitWord (s.timer c).chn
  | .tIf c => bitWord (s.timer c).flag
  | .adCh sl => (s.conv sl).ch.setWidth 32
  | .adDiff sl => bitWord (s.conv sl).diff
  | .adIen sl => bitWord (s.conv sl).ien
  | .adCoco sl => bitWord (s.conv sl).coco
  | .adR sl => (s.conv sl).result.setWidth 32
  | .adIclk => s.adIclk.setWidth 32
  | .adMode => s.adMode.setWidth 32
  | .adSmplt => bitWord s.adSmplt
  | .adDiv => s.adDiv.setWidth 32
  | .adTmo => s.adTmo
  | .cb => s.cb
  | .tick => s.tick.setWidth 32
  | .duty => s.duty.setWidth 32
  | .outLevel => bitWord s.outLevel
  | .pin => bitWord s.pin
  | .lpCode => s.lpCode.setWidth 32
  | .lpSlot => s.lpSlot.setWidth 32
  | .lpDiff => bitWord s.lpDiff
  | .stLast => s.stLast.setWidth 32
  | .stErr => s.stErr.setWidth 32

/-- `f <- v` (00_scope.md R11): store the low bits of `v` in a field; every other field keeps its value. -/
def putField (f : Field) (v : Word) (s : State) : State :=
  match f with
  | .tLoad c => s.setTimer c { s.timer c with load := v }
  | .tEn c => s.setTimer c { s.timer c with en := v.getLsbD 0 }
  | .tIe c => s.setTimer c { s.timer c with ie := v.getLsbD 0 }
  | .tChn c => s.setTimer c { s.timer c with chn := v.getLsbD 0 }
  | .tIf c => s.setTimer c { s.timer c with flag := v.getLsbD 0 }
  | .adCh sl => s.setConv sl { s.conv sl with ch := v.setWidth 5 }
  | .adDiff sl => s.setConv sl { s.conv sl with diff := v.getLsbD 0 }
  | .adIen sl => s.setConv sl { s.conv sl with ien := v.getLsbD 0 }
  | .adCoco sl => s.setConv sl { s.conv sl with coco := v.getLsbD 0 }
  | .adR sl => s.setConv sl { s.conv sl with result := v.setWidth 16 }
  | .adIclk => { s with adIclk := v.setWidth 2 }
  | .adMode => { s with adMode := v.setWidth 2 }
  | .adSmplt => { s with adSmplt := v.getLsbD 0 }
  | .adDiv => { s with adDiv := v.setWidth 2 }
  | .adTmo => { s with adTmo := v }
  | .cb => { s with cb := v }
  | .tick => { s with tick := v.setWidth 7 }
  | .duty => { s with duty := v.setWidth 7 }
  | .outLevel => { s with outLevel := v.getLsbD 0 }
  | .pin => { s with pin := v.getLsbD 0 }
  | .lpCode => { s with lpCode := v.setWidth 8 }
  | .lpSlot => { s with lpSlot := v.setWidth 8 }
  | .lpDiff => { s with lpDiff := v.getLsbD 0 }
  | .stLast => { s with stLast := v.setWidth 4 }
  | .stErr => { s with stErr := v.setWidth 7 }

/-- The bits of word `w` that belong to field `f`: `(w >> off(f)) and mask(f)` (10_state.md R40). -/
def slice (f : Field) (w : Word) : Word := (w >>> fieldOff f) &&& maskOf (fieldWidth f)

/-- `RegRead(r)` (10_state.md R40): every field at its bit position, 0 in every other bit. -/
def regRead (r : Reg) (s : State) : Word :=
  (regFields r).foldl (fun w f => w ||| (getField f s <<< fieldOff f)) 0#32

/-- What `RegWrite` does to one field with that field's bits of the word (10_state.md R40). -/
def writeSlice (f : Field) (v : Word) (s : State) : State :=
  match fieldAcc f with
  | .rw => putField f v s
  | .w1c => putField f (getField f s &&& ~~~v) s
  | .ro => s

/-- `RegWrite(r, w)` (10_state.md R40). The side effects of 20_memory.md R53 on the flags are those of the
write-1-to-clear fields; the start of a conversion belongs to a `FieldWrite` of `AD_CH` and is made by the
operation (log 30). -/
def regWrite (r : Reg) (w : Word) (s : State) : State :=
  (regFields r).foldl (fun t f => writeSlice f (slice f w) t) s

/-- `FieldRead(f)` (00_scope.md R11). -/
def fieldRead (f : Field) (s : State) : Word := slice f (regRead (fieldReg f) s)

/-- The word that `FieldWrite(f, v)` writes over the word `old` (00_scope.md R11). -/
def mergeField (f : Field) (v old : Word) : Word :=
  (old &&& ~~~(maskOf (fieldWidth f) <<< fieldOff f)) |||
    ((v &&& maskOf (fieldWidth f)) <<< fieldOff f)

/-- `FieldWrite(f, v)` (00_scope.md R11): one read and one write of the whole register, one micro-step
(20_memory.md R51). -/
def fieldWrite (f : Field) (v : Word) (s : State) : State :=
  regWrite (fieldReg f) (mergeField f v (regRead (fieldReg f) s)) s

/-- The byte at `BASE + offset` of the debug image, little-endian; `none` where the map holds nothing
(20_memory.md R46, R48; log 21). -/
def imageByte (s : State) (offset : Nat) : Option Byte :=
  (allRegs.find? fun r => regOffset r = offset / 4 * 4).map fun r =>
    BitVec.ofNat 8 ((regRead r s).toNat >>> (8 * (offset % 4)))

/-- The access of a register behind gate `g`: with the gate at 0 the fault of 20_memory.md R62, no value. -/
def gated {α : Type} (g : Gate) (s : State) (a : α) : Except Fault α :=
  if s.gate g = true then .ok a else .error (.ungatedAccess g)

/-- The clock-gate test of a field access (40_ral.md R82, R83). -/
def gatedField {α : Type} (f : Field) (s : State) (a : α) : Except Fault α :=
  match regGate (fieldReg f) with
  | some g => gated g s a
  | none => .ok a

/-- A micro-step's outcome from the state it leaves or its fault. -/
def finish : Except Fault State → Host.Outcome State Fault Refusal
  | .ok s => .next s
  | .error f => .fault f

/-- `StartConversion(s)` (42_conversion_sequencer.md R103): the converter's reaction to a write of `AD_CH[s]`. -/
def startConversion (sl : Slot) (s : State) : State :=
  s.setConv sl { s.conv sl with coco := false, busy := decide ((s.conv sl).ch ≠ 31#5) }

/-- The response (30_encoding.md R63, R66): `STATUS`, `RDATA` and `ST_LAST` at the same moment, the sticky flag
(60_exceptions.md R133), and `bg <- Idle`. But for `TCFG` it is written in the operation's last micro-step (log 32). -/
def respond (st : Status) (rdata : Word) (s : State) : State :=
  { note st s with
    rspStatus := BitVec.ofNat 4 (statusCode st)
    rspData := rdata
    stLast := BitVec.ofNat 4 (statusCode st)
    bg := .idle }

/-- The next micro-step of the command in progress. -/
def advance (k : Micro) (s : State) : State := { s with bg := .exec k }

/-- Taking the interrupt (60_exceptions.md R148): `isr <- Disp(1, -, -, -)`, nothing saved, no mask, no mode, no
vector; the clock-gate test is the first line of R141. -/
def takeInterrupt (s : State) : Except Fault State := gated .tmr s { s with isr := .line1 }

/-- The return from the interrupt (60_exceptions.md R149, line 7 of R141): nothing to restore. -/
def returnFromInterrupt (s : State) : State := { s with isr := .none }

end Sys2Proof.Machine
end

