-- ==== Sys2Proof/Machine/Converter.lean ====
section
/-! DEFINITION. The Conversion Sequencer (42_conversion_sequencer.md): `ADSEL` (R100), `ADWAIT` (R104), `ADREAD` (R107). The micro-steps
are shared with `LOOPIT`, `RUN` and `INIT`. -/

namespace Sys2Proof.Machine

open Sys2Proof

/-- `ADSEL` micro-step 1: the mode first (42_conversion_sequencer.md R100, R101). -/
def selectMode (sl : Slot) (diff : Bool) (s : State) : Except Fault State :=
  gated .adc s (fieldWrite (.adDiff sl) (bitWord diff) s)

/-- `ADSEL` micro-step 2: the resolved code is written and the conversion starts (42_conversion_sequencer.md R100, R103). -/
def selectCode (sl : Slot) (code : Nat) (diff : Bool) (s : State) : Except Fault State :=
  gated .adc s
    (startConversion sl (fieldWrite (.adCh sl) (BitVec.ofNat 32 (resolve s.cfg code diff)) s))

/-- The status of a select: `OK` exactly when the written code is the requested one (42_conversion_sequencer.md R100). -/
def selectStatus (cfg : Config) (code : Nat) (diff : Bool) : Status :=
  if resolve cfg code diff = code then .ok else .invalidInputChannelCode

/-- What one poll finds. -/
inductive Poll where
  | ended (st : Status)
  | again (left : Word)
deriving DecidableEq, Repr

/-- One poll of the completion flag (42_conversion_sequencer.md R104): a fresh read; with `bound = 0` the wait has no end of
its own (R106). -/
def pollFlag (coco : Bool) (bound left : Word) : Poll :=
  if coco = true then .ended .ok
  else if bound = 0#32 then .again left
  else if left - 1#32 = 0#32 then .ended .conversionTimeout
  else .again (left - 1#32)

/-- A poll of slot `sl` (42_conversion_sequencer.md R104). -/
def pollSlot (sl : Slot) (bound left : Word) (s : State) : Except Fault Poll :=
  gated .adc s (pollFlag (s.conv sl).coco bound left)

/-- The value a result read gives: a free value while the slot is busy (42_conversion_sequencer.md R107, R108; log 9). -/
def resultValue (sl : Slot) (s : State) : Word :=
  if (s.conv sl).busy = true then (Config.freeSample s.draws).setWidth 32
  else (s.conv sl).result.setWidth 32

/-- The state after a result read: a draw is used up while the slot is busy, and the completion flag is
cleared only under `COCO_CLEAR_ON_READ` (42_conversion_sequencer.md R107). -/
def afterRead (sl : Slot) (s : State) : State :=
  { s.setConv sl { s.conv sl with coco := (s.conv sl).coco && !s.cfg.cocoClearOnRead } with
    draws := if (s.conv sl).busy = true then s.draws + 1 else s.draws }

/-- A result read of slot `sl` (42_conversion_sequencer.md R107). -/
def readSlot (sl : Slot) (s : State) : Except Fault (Word × State) :=
  gated .adc s (resultValue sl s, afterRead sl s)

/-- `ADSEL slot, code, diff` (42_conversion_sequencer.md R100), two micro-steps. -/
def execAdsel (slot code : Nat) (diff : Bool) (s : State) : Host.Outcome State Fault Refusal :=
  match slotOf slot with
  | none => .next (respond .invalidChannelIndex 0#32 s)
  | some sl =>
    match s.bg with
    | .exec .adselCode =>
      finish ((selectCode sl code diff s).map
        (respond (selectStatus s.cfg code diff) (BitVec.ofNat 32 (resolve s.cfg code diff))))
    | _ => finish ((selectMode sl diff s).map (advance .adselCode))

/-- What `ADWAIT` does with a poll's finding (42_conversion_sequencer.md R104). -/
def afterPoll (bound : Word) (s : State) : Poll → State
  | .ended st => respond st 0#32 s
  | .again left => advance (.adwaitPoll bound left) s

/-- `ADWAIT slot` (42_conversion_sequencer.md R104), one micro-step for each poll; `AD_TMO` is read once, with the first. -/
def execAdwait (slot : Nat) (s : State) : Host.Outcome State Fault Refusal :=
  match slotOf slot with
  | none => .next (respond .invalidChannelIndex 0#32 s)
  | some sl =>
    match s.bg with
    | .exec (.adwaitPoll bound left) => finish ((pollSlot sl bound left s).map (afterPoll bound s))
    | _ => finish ((pollSlot sl s.adTmo s.adTmo s).map (afterPoll s.adTmo s))

/-- `ADREAD slot` (42_conversion_sequencer.md R107), one micro-step; reading early is no error (R108). -/
def execAdread (slot : Nat) (s : State) : Host.Outcome State Fault Refusal :=
  match slotOf slot with
  | none => .next (respond .invalidChannelIndex 0#32 s)
  | some sl => finish ((readSlot sl s).map fun r => respond .ok r.1 r.2)

end Sys2Proof.Machine
end

