-- ==== Sys2Proof/Machine/Timer.lean ====
section
/-! DEFINITION. The Timer Scheduler (41_timer_scheduler.md): `TCFG` (R90), `TSTART` (R91), `TSTOP` (R92), `CBREG` (R93). The
index test comes before the gate test, so an invalid index never faults (R94). -/

namespace Sys2Proof.Machine

open Sys2Proof

/-- `TCFG` micro-step 1: `T_LOAD[ch] <- load` (41_timer_scheduler.md R90). -/
def writeLoad (c : Chan) (load : Word) (s : State) : Except Fault State :=
  gated .tmr s (regWrite (.tLoad c) load s)

/-- `TCFG` micro-step 2 (41_timer_scheduler.md R90). -/
def writeChain (c : Chan) (chained : Bool) (s : State) : Except Fault State :=
  gated .tmr s (fieldWrite (.tChn c) (bitWord chained) s)

/-- `TCFG` micro-step 3 (41_timer_scheduler.md R90). -/
def writeArm (c : Chan) (ie : Bool) (s : State) : Except Fault State :=
  gated .tmr s (fieldWrite (.tIe c) (bitWord ie) s)

/-- `TSTART` and `TSTOP` set the run state and nothing else (41_timer_scheduler.md R89, R91, R92). -/
def writeRunState (c : Chan) (run : Bool) (s : State) : Except Fault State :=
  gated .tmr s (fieldWrite (.tEn c) (bitWord run) s)

/-- `TCFG ch, load, chained, ie` (41_timer_scheduler.md R90): three micro-steps, and then the response, so that a dispatch
for the line that the third one raised may run before it (R90 c). -/
def execTcfg (ch : Nat) (load : Word) (chained ie : Bool) (s : State) : Host.Outcome State Fault Refusal :=
  match chanOf ch with
  | none => .next (respond .invalidChannelIndex 0#32 s)
  | some c =>
    match s.bg with
    | .exec .tcfgChain => finish ((writeChain c chained s).map (advance .tcfgArm))
    | .exec .tcfgArm => finish ((writeArm c ie s).map (advance .tcfgRespond))
    | .exec .tcfgRespond => .next (respond .ok 0#32 s)
    | _ => finish ((writeLoad c load s).map (advance .tcfgChain))

/-- `TSTART ch` (41_timer_scheduler.md R91), one micro-step. -/
def execTstart (ch : Nat) (s : State) : Host.Outcome State Fault Refusal :=
  match chanOf ch with
  | none => .next (respond .invalidChannelIndex 0#32 s)
  | some c => finish ((writeRunState c true s).map (respond .ok 0#32))

/-- `TSTOP ch` (41_timer_scheduler.md R92), one micro-step; a pending flag stays set. -/
def execTstop (ch : Nat) (s : State) : Host.Outcome State Fault Refusal :=
  match chanOf ch with
  | none => .next (respond .invalidChannelIndex 0#32 s)
  | some c => finish ((writeRunState c false s).map (respond .ok 0#32))

/-- `CBREG handle` (41_timer_scheduler.md R93), one micro-step; 0 is no callback, and no gate is needed. -/
def execCbreg (handle : Word) (s : State) : Host.Outcome State Fault Refusal :=
  .next (respond .ok 0#32 { s with cb := handle })

end Sys2Proof.Machine
end

