-- ==== Sys2Proof/Machine/Init.lean ====
section
/-! DEFINITION. Initialisation (43_control_loop.md R127 to R129): `INIT`. -/

namespace Sys2Proof.Machine

open Sys2Proof

/-- The response status: the first non-OK in stage order (43_control_loop.md R127, R129). -/
def initStatus (s1 s2 : Status) : Status := if s1 = .ok then s2 else s1

/-- All three configuration references are present (43_control_loop.md R128). -/
def allPresent (a : InitArgs) : Bool := a.pClk && a.pSlot && a.pTmr

/-- The next line of `INIT`. -/
def initGoto (p : InitPos) (s : State) : State := advance (.init p) s

/-- Line 6: the loop's configured channel (43_control_loop.md R127). -/
def writeLoopConfig (a : InitArgs) (s : State) : State :=
  { s with lpSlot := BitVec.ofNat 8 a.sSlot, lpCode := BitVec.ofNat 8 a.sCode, lpDiff := a.sDiff }

/-- One micro-step of `INIT` after line 0 (43_control_loop.md R127). A later stage runs whatever status an earlier
one gave (R129); a line whose condition is false is a micro-step that writes nothing (log 24). -/
def initStep (a : InitArgs) (p : InitPos) (s : State) : Except Fault State :=
  match p with
  | .line1 => gated .adc s (initGoto .line2 (fieldWrite .adIclk (a.kIclk.setWidth 32) s))
  | .line2 => gated .adc s (initGoto .line3 (fieldWrite .adDiv (a.kDiv.setWidth 32) s))
  | .line3 => gated .adc s (initGoto .line4 (fieldWrite .adMode (a.kMode.setWidth 32) s))
  | .line4 => gated .adc s (initGoto .line5 (fieldWrite .adSmplt (bitWord a.kSmplt) s))
  | .line5 =>
    match slotOf a.sSlot with
    | none => .ok (initGoto .line6 s)
    | some sl => gated .adc s (initGoto .line6 (fieldWrite (.adIen sl) (bitWord a.sIen) s))
  | .line6 => .ok (initGoto .select (writeLoopConfig a s))
  | .select =>
    match slotOf a.sSlot with
    | none => .ok (initGoto (.load .invalidChannelIndex) (note .invalidChannelIndex s))
    | some sl => (selectMode sl a.sDiff s).map (initGoto (.code sl))
  | .code sl =>
    (selectCode sl a.sCode a.sDiff s).map fun t =>
      initGoto (.load (selectStatus s.cfg a.sCode a.sDiff)) (note (selectStatus s.cfg a.sCode a.sDiff) t)
  | .load s1 =>
    match chanOf a.tIndex with
    | none => .ok (initGoto (.runState s1 .invalidChannelIndex) (note .invalidChannelIndex s))
    | some c => (writeLoad c a.tLoad s).map (initGoto (.chain c s1))
  | .chain c s1 => (writeChain c a.tChained s).map (initGoto (.arm c s1))
  | .arm c s1 => (writeArm c a.tIe s).map (initGoto (.runState s1 .ok))
  | .runState s1 s2 =>
    match chanOf a.tIndex with
    | none => .ok (initGoto (.callback s1 s2) s)
    | some c => (writeRunState c a.tEnabled s).map (initGoto (.callback s1 s2))
  | .callback s1 s2 => .ok (respond (initStatus s1 s2) 0#32 { s with cb := s.cfg.cbTick })

/-- `INIT` (43_control_loop.md R127): line 0 is the null test, first and alone (R128). -/
def execInit (a : InitArgs) (s : State) : Host.Outcome State Fault Refusal :=
  match s.bg with
  | .exec (.init p) => finish (initStep a p s)
  | _ =>
    if allPresent a = true then .next (initGoto .line1 s)
    else .next (respond .nullConfiguration 0#32 s)

end Sys2Proof.Machine
end

