-- ==== Sys2Proof/Machine/Loop.lean ====
section
/-! DEFINITION. The Control Loop and the PWM generator (43_control_loop.md): `DMAP` (R117), `PWMUPD` (R119), `LOOPIT`
(R121), `RUN` (R125). -/

namespace Sys2Proof.Machine

open Sys2Proof

/-- `duty(v)` (43_control_loop.md R114): three regions, one pair of thresholds (R116), truncating division. -/
def dutyOf (cfg : Config) (v : Nat) : Nat :=
  if v ≤ cfg.tLow then 0
  else if v ≥ cfg.tHigh then 100
  else (v - cfg.tLow) * 100 / (cfg.tHigh - cfg.tLow)

/-- `active(t, d)` (43_control_loop.md R118); never at duty 0 (90_conflicts.md C1). -/
def isActive (t d : Nat) : Bool := decide (d ≠ 0 ∧ t ≤ d)

/-- `level(t, d)` (43_control_loop.md R118), a pin level: 1 is HIGH (R120). -/
def levelOf (cfg : Config) (t d : Nat) : Bool :=
  if isActive t d = true then cfg.activeLevel else !cfg.activeLevel

/-- The comparator step: one fresh read of `TICK`, and `OUT_LEVEL <- level(t, DUTY)` (43_control_loop.md R119, R121 line 4). -/
def compareStep (s : State) : State :=
  { s with outLevel := levelOf s.cfg s.tick.toNat s.duty.toNat }

/-- "Set level": `FieldWrite(PIN, OUT_LEVEL)` (43_control_loop.md R119, R121 line 5). -/
def driveStep (s : State) : Except Fault State :=
  gated .pin s (fieldWrite .pin (bitWord s.outLevel) s)

/-- `DMAP v` (43_control_loop.md R117), one micro-step; no state but the response. -/
def execDmap (v : Word) (s : State) : Host.Outcome State Fault Refusal :=
  .next (respond .ok (BitVec.ofNat 32 (dutyOf s.cfg v.toNat)) s)

/-- `PWMUPD` (43_control_loop.md R119), two micro-steps; the gate is tested before the first. -/
def execPwmupd (s : State) : Host.Outcome State Fault Refusal :=
  match s.bg with
  | .exec .pwmPin => finish ((driveStep s).map (respond .ok 0#32))
  | _ => finish (gated .pin s (advance .pwmPin (compareStep s)))

/-- Where an iteration goes after one of its micro-steps. -/
inductive LoopNext where
  | goto (p : LoopPos)
  | ended (st : Status)
deriving DecidableEq, Repr

/-- The iteration's status: the wait's if it is not `OK`, else the select's (43_control_loop.md R124). -/
def loopStatus (s1 s2 : Status) : Status := if s2 = .ok then s1 else s2

/-- Line 3: `DUTY <- duty(v)`, or the safe fallback 0 (43_control_loop.md R121, R123). -/
def writeDuty (s2 : Status) (v : Word) (s : State) : State :=
  { s with duty := if s2 = .ok then BitVec.ofNat 7 (dutyOf s.cfg v.toNat) else 0#7 }

/-- Line 1 after a poll (43_control_loop.md R121). -/
def afterLoopPoll (sl : Slot) (s1 : Status) (bound : Word) (s : State) : Poll → LoopNext × State
  | .ended st => if st = .ok then (.goto (.read sl s1), s) else (.goto (.duty s1 st 0#32), note st s)
  | .again left => (.goto (.poll sl s1 bound left), s)

/-- One micro-step of an iteration (43_control_loop.md R121, R122). A line that R121 does not perform takes no
micro-step (log 12). -/
def loopStep (p : LoopPos) (s : State) : Except Fault (LoopNext × State) :=
  match p with
  | .line0 => .ok (.goto (.select s.lpSlot s.lpCode s.lpDiff), s)
  | .select slot c m =>
    match slotOf slot.toNat with
    | none =>
      .ok (.goto (.duty .invalidChannelIndex .invalidChannelIndex 0#32), note .invalidChannelIndex s)
    | some sl => (selectMode sl m s).map fun t => (.goto (.code sl c m), t)
  | .code sl c m =>
    (selectCode sl c.toNat m s).map fun t =>
      (.goto (.wait sl (selectStatus s.cfg c.toNat m)), note (selectStatus s.cfg c.toNat m) t)
  | .wait sl s1 => (pollSlot sl s.adTmo s.adTmo s).map (afterLoopPoll sl s1 s.adTmo s)
  | .poll sl s1 bound left => (pollSlot sl bound left s).map (afterLoopPoll sl s1 bound s)
  | .read sl s1 => (readSlot sl s).map fun r => (.goto (.duty s1 .ok r.1), r.2)
  | .duty s1 s2 v => .ok (.goto (.compare (loopStatus s1 s2)), writeDuty s2 v s)
  | .compare st => .ok (.goto (.drive st), compareStep s)
  | .drive st => (driveStep s).map fun t => (.ended st, t)

/-- `LOOPIT` after one of its micro-steps: the next position, or the response with `RDATA <- DUTY`
(43_control_loop.md R121). -/
def loopitAfter : LoopNext × State → State
  | (.goto p, s) => advance (.loop p) s
  | (.ended st, s) => respond st (s.duty.setWidth 32) s

/-- `LOOPIT` (43_control_loop.md R121): one iteration on the configured channel. -/
def execLoopit (s : State) : Host.Outcome State Fault Refusal :=
  match s.bg with
  | .exec (.loop p) => finish ((loopStep p s).map loopitAfter)
  | _ => finish ((loopStep .line0 s).map loopitAfter)

/-- The end of an iteration of `RUN`: `ST_LAST` and `ST_ERR`, no response, and back to line 0
(43_control_loop.md R125). -/
def nextIteration (st : Status) (s : State) : State :=
  { note st s with stLast := BitVec.ofNat 4 (statusCode st), bg := .run .line0 }

/-- `RUN` after one of its micro-steps. -/
def runAfter : LoopNext × State → State
  | (.goto p, s) => { s with bg := .run p }
  | (.ended st, s) => nextIteration st s

/-- `RUN` (43_control_loop.md R125): `bg <- Run(0)`, then lines 0 to 5 of `LOOPIT` for ever (R126). -/
def execRun (s : State) : Host.Outcome State Fault Refusal :=
  match s.bg with
  | .run p => finish ((loopStep p s).map runAfter)
  | _ => .next { s with bg := .run .line0 }

end Sys2Proof.Machine
end

