-- ==== Sys2Proof/Machine/Ral.lean ====
section
/-! DEFINITION. The Register Access Layer (40_ral.md): `RALWR` (R82) and `RALRD` (R83). -/

namespace Sys2Proof.Machine

open Sys2Proof

/-- The write of a legal value: a write-1-to-clear field loses each bit that is 1 in `v`; any other field is
written by `FieldWrite`; a write of `AD_CH` starts a conversion (40_ral.md R82). -/
def ralStore (f : Field) (v : Word) (s : State) : State :=
  if fieldAcc f = .w1c then putField f (getField f s &&& ~~~v) s
  else
    match startsConversion f with
    | some sl => startConversion sl (fieldWrite f v s)
    | none => fieldWrite f v s

/-- `RALWR field, value` (40_ral.md R82), one micro-step. -/
def execRalwr (fid : Nat) (v : Word) (s : State) : Host.Outcome State Fault Refusal :=
  match fieldOf fid with
  | none => .next (respond .illegalCommand 0#32 s)
  | some f =>
    if fieldAcc f = .ro then .next (respond .illegalCommand 0#32 s)
    else
      finish (gatedField f s
        (if fieldLegal f v = true then respond .ok 0#32 (ralStore f v s)
         else respond .invalidFieldValue 0#32 s))

/-- `RALRD field` (40_ral.md R83), one micro-step, no side effect. -/
def execRalrd (fid : Nat) (s : State) : Host.Outcome State Fault Refusal :=
  match fieldOf fid with
  | none => .next (respond .illegalCommand 0#32 s)
  | some f => finish (gatedField f s (respond .ok (fieldRead f s) s))

end Sys2Proof.Machine
end

