-- ==== Sys2Proof/Machine/Dispatch.lean ====
section
/-! DEFINITION. One arm per operation: the next micro-step of the instruction `i` in the state `s` (10_state.md R36). -/

namespace Sys2Proof.Machine

open Sys2Proof

def exec (i : Instr) (s : State) : Host.Outcome State Fault Refusal :=
  match i with
  | .ralwr fid value => Sys2Proof.Machine.execRalwr fid value s
  | .ralrd fid => Sys2Proof.Machine.execRalrd fid s
  | .tcfg ch load chained ie => Sys2Proof.Machine.execTcfg ch load chained ie s
  | .tstart ch => Sys2Proof.Machine.execTstart ch s
  | .tstop ch => Sys2Proof.Machine.execTstop ch s
  | .cbreg handle => Sys2Proof.Machine.execCbreg handle s
  | .adsel slot code diff => Sys2Proof.Machine.execAdsel slot code diff s
  | .adwait slot => Sys2Proof.Machine.execAdwait slot s
  | .adread slot => Sys2Proof.Machine.execAdread slot s
  | .dmap v => Sys2Proof.Machine.execDmap v s
  | .pwmupd => Sys2Proof.Machine.execPwmupd s
  | .loopit => Sys2Proof.Machine.execLoopit s
  | .run => Sys2Proof.Machine.execRun s
  | .init args => Sys2Proof.Machine.execInit args s

end Sys2Proof.Machine
end

