-- ==== Sys2Proof/Machine/Background.lean ====
section
/-! DEFINITION. The background context: acceptance of a command and its micro-steps (30_encoding.md R63, 10_state.md R36). -/

namespace Sys2Proof.Machine

open Sys2Proof

/-- The latched command (10_state.md R15). -/
def latched (s : State) : Command := ⟨s.cw, s.arg0, s.arg1⟩

/-- Acceptance (30_encoding.md R63): the three words are latched and `bg <- Exec(op, 1)`. -/
def accept (c : Command) (rest : List Command) (s : State) : State :=
  { s with cw := c.cw, arg0 := c.arg0, arg1 := c.arg1, commands := rest, bg := .exec .first }

/-- What the port of an idle block does: it accepts the command the host presents, if any (10_state.md R36). -/
def acceptNext (s : State) : State :=
  match s.commands with
  | [] => s
  | c :: rest => accept c rest s

/-- The next micro-step of the latched command; a command that does not decode responds `IllegalCommand` and
changes nothing else (30_encoding.md R72, R73, R76). -/
def runLatched (s : State) : Host.Outcome State Fault Refusal :=
  match decode (latched s) with
  | .ok i => exec i s
  | .error _ => .next (respond .illegalCommand 0#32 s)

/-- One move of the background context: `Idle` accepts the command the host presents, if any; otherwise the
next micro-step is performed. -/
def backgroundStep (s : State) : Host.Outcome State Fault Refusal :=
  match s.bg with
  | .idle => .next (acceptNext s)
  | .exec _ => runLatched s
  | .run _ => exec .run s

/-- A turn of the background context. The port accepts a command whenever `bg = Idle`, whatever the state, so in a
dispatch too (45_cross_family_laws.md R180, 10_state.md R36); a micro-step is performed only outside a dispatch
(20_memory.md R55, 60_exceptions.md R142). -/
def backgroundTurn (s : State) : Host.Outcome State Fault Refusal :=
  if s.bg = .idle ∨ s.isr = .none then backgroundStep s else .next s

end Sys2Proof.Machine
end

