-- ==== Sys2Proof/Machine/Environment.lean ====
section
/-! DEFINITION. The environment agents: the timer hardware (60_exceptions.md R137), the converter hardware
(42_conversion_sequencer.md R110), and the reset event (70_reset_and_hazards.md R157). -/

namespace Sys2Proof.Machine

open Sys2Proof

/-- `TimerExpire(c)` (60_exceptions.md R137): enabled when `GATE_TMR = 1` and `T_EN[c] = 1`; the flag is set whether or
not the channel is armed (PRESUMED, log 22). Neither `T_LOAD` nor `T_CHN` constrains it (41_timer_scheduler.md R96, R97). -/
def timerExpire (c : Chan) (s : State) : State :=
  if s.gateTmr = true ∧ (s.timer c).en = true then s.setTimer c { s.timer c with flag := true } else s

/-- `RES_BITS(AD_MODE)` (00_scope.md R9). -/
def resBits (cfg : Config) (mode : BitVec 2) : Nat :=
  if mode = 0#2 then cfg.resBits0
  else if mode = 1#2 then cfg.resBits1
  else if mode = 2#2 then cfg.resBits2
  else cfg.resBits3

/-- The values a completing conversion can have (42_conversion_sequencer.md R110): below `2^RES_BITS(AD_MODE)` in
single-ended mode, any in differential mode, and any for a reserved code put in raw (R112 b; log 17). -/
def sampleAdmitted (sl : Slot) (x : BitVec 16) (s : State) : Bool :=
  (s.conv sl).diff ||
    decide ((s.conv sl).ch = 24#5 ∨ (s.conv sl).ch = 25#5 ∨ (s.conv sl).ch = 28#5) ||
    decide (x.toNat < 2 ^ resBits s.cfg s.adMode)

/-- `ConvComplete(s, x)` (42_conversion_sequencer.md R110): enabled when `GATE_ADC = 1` and the slot is busy. -/
def convComplete (sl : Slot) (x : BitVec 16) (s : State) : State :=
  if s.gateAdc = true ∧ (s.conv sl).busy = true ∧ sampleAdmitted sl x s = true then
    s.setConv sl { s.conv sl with result := x, coco := true, busy := false }
  else s

/-- The reset event (70_reset_and_hazards.md R157, R159, R160): every field takes its reset value; a command and a
dispatch in progress are abandoned; the clock gates are the host's and keep their levels. What the
outside world still has in store is no state of the block (log 25). -/
def powerCycle (s : State) : State :=
  { State.resetWith s.cfg s.gateTmr s.gateAdc s.gatePin with
    commands := s.commands
    turns := s.turns
    draws := s.draws }

end Sys2Proof.Machine
end

