-- ==== Sys2Proof/Machine/Interrupt.lean ====
section
/-! DEFINITION. The interrupt dispatch (60_exceptions.md R141 to R151) and its handlers. -/

namespace Sys2Proof.Machine

open Sys2Proof

/-- The tick handler (60_exceptions.md R144): `TICK` counts 0..99 and wraps. -/
def tickHandler (s : State) : State :=
  { s with tick := if s.tick.toNat + 1 = 100 then 0#7 else BitVec.ofNat 7 (s.tick.toNat + 1) }

/-- Line 6 of the dispatch (60_exceptions.md R141, R143): `CB` is read once; 0 invokes nothing, `CB_TICK` runs the
tick handler (R144), any other handle is emitted to the host, whose return is awaited (R145). -/
def invoke (s : State) : State :=
  if s.cb = 0#32 then { s with isr := .line7 }
  else if s.cb = s.cfg.cbTick then { tickHandler s with isr := .line7 }
  else { s with isr := .waiting s.cb }

/-- Write 1 to a channel's flag (60_exceptions.md R141, 20_memory.md R53 a). -/
def clearFlag (c : Chan) (s : State) : State := regWrite (.tFlag c) 1#32 s

/-- One micro-step of the dispatch (60_exceptions.md R141, R142). A line whose condition is false is a micro-step
that writes nothing (log 13). -/
def dispatchStep (s : State) : Except Fault State :=
  match s.isr with
  | .none => .ok s
  | .line1 => gated .tmr s { s with isr := .line2 (s.timer .ch0).flag }
  | .line2 f0 => gated .tmr s { s with isr := .line3 f0 (s.timer .ch1).flag }
  | .line3 f0 f1 =>
    if f0 = true then gated .tmr s { clearFlag .ch0 s with isr := .line4 f0 f1 }
    else .ok { s with isr := .line4 f0 f1 }
  | .line4 f0 f1 =>
    if f1 = true then gated .tmr s { clearFlag .ch1 s with isr := .line5 f0 f1 }
    else .ok { s with isr := .line5 f0 f1 }
  | .line5 f0 f1 =>
    if f0 = false ∧ f1 = false then gated .tmr s { clearFlag .ch0 s with isr := .line5b }
    else .ok { s with isr := .line6 }
  | .line5b => gated .tmr s { clearFlag .ch1 s with isr := .line6 }
  | .line6 => .ok (invoke s)
  | .waiting _ => .ok s
  | .line7 => .ok (returnFromInterrupt s)

/-- A turn of the interrupt context: it starts a dispatch when the line is high and none is in progress
(60_exceptions.md R148, R150), and otherwise performs the next micro-step of the one in progress. -/
def interruptTurn (s : State) : Except Fault State :=
  if s.isr = .none then (if irqLine s = true then takeInterrupt s else .ok s)
  else dispatchStep s

/-- The event `Spurious` (60_exceptions.md R140): it starts a dispatch exactly as a true interrupt does. -/
def spuriousTurn (s : State) : Except Fault State :=
  if s.isr = .none ∧ s.cfg.allowSpurious = true then takeInterrupt s else .ok s

/-- The host's handler returns: line 7 is next (60_exceptions.md R145). -/
def handlerReturn (s : State) : State :=
  match s.isr with
  | .waiting _ => { s with isr := .line7 }
  | _ => s

end Sys2Proof.Machine
end

