-- ==== Sys2Proof/Machine/Turns.lean ====
section
/-! DEFINITION. What each turn of each agent does (00_scope.md R12, 20_memory.md R55). -/

namespace Sys2Proof.Machine

open Sys2Proof

/-- One turn. A turn that is not enabled changes nothing (log 1, log 16). -/
def takeTurn (t : Turn) (s : State) : Host.Outcome State Fault Refusal :=
  match t with
  | .background => backgroundTurn s
  | .interrupt => finish (interruptTurn s)
  | .spurious => finish (spuriousTurn s)
  | .timerExpire c => .next (timerExpire c s)
  | .convComplete sl x => .next (convComplete sl x s)
  | .handlerReturn => .next (handlerReturn s)
  | .setGate g v => .next (s.setGate g v)
  | .powerCycle => .next (powerCycle s)

/-- Who moves when the outside world has nothing more to say: the interrupt context while it has a micro-step to
perform or the line is high, else the background context, so while an external handler is awaited too
(DESIGN CHOICE, log 2). Every other order that 60_exceptions.md R147 and R149 admit is a list of turns. -/
def quietTurn (s : State) : Turn :=
  match s.isr with
  | .none => if irqLine s = true then .interrupt else .background
  | .waiting _ => .background
  | _ => .interrupt

end Sys2Proof.Machine
end

