-- ==== Sys2Proof/Machine/Step.lean ====
section
/-! DEFINITION. One step: the next turn of the list, or the quiet order when the list is empty; and the placing of a
command where the next step runs it. -/

namespace Sys2Proof.Machine

open Sys2Proof

/-- One step of the block. -/
def step (s : State) : Host.Outcome State Fault Refusal :=
  match s.turns with
  | [] => takeTurn (quietTurn s) s
  | t :: rest => takeTurn t { s with turns := rest }

/-- `s` with the command whose bits are `w` (numbered as the opcode table numbers them) accepted and its first
micro-step next: the words latched, `bg = Exec(op, 1)` (30_encoding.md R63), no dispatch in progress, the next turn the
background context's, and the three clock gates raised as the boot order requires of the host before any
operation (70_reset_and_hazards.md R162, log 4). -/
def State.withFetchWord (s : State) (nbits w : Nat) : State :=
  { s with
    cw := (commandOfBits nbits w).cw
    arg0 := (commandOfBits nbits w).arg0
    arg1 := (commandOfBits nbits w).arg1
    bg := .exec .first
    isr := .none
    turns := .background :: s.turns
    gateTmr := true
    gateAdc := true
    gatePin := true }

end Sys2Proof.Machine
end

