-- ==== Sys2Proof/Safety.lean ====
section
/-! DEFINITION. What claims are stated in terms of: the agent that moves next, a command's micro-steps performed in a
row, the observables (00_scope.md R13), and the invariant (10_state.md R43 and what the positions of the two
contexts carry). -/

namespace Sys2Proof.Machine

open Sys2Proof

/-- The turn that the next step takes. -/
def nextTurn (s : State) : Turn :=
  match s.turns with
  | [] => quietTurn s
  | t :: _ => t

/-- The state without the turn that the next step takes. -/
def afterTurn (s : State) : State := { s with turns := s.turns.tail }

/-- `n` micro-steps of one instruction in a row, with no other agent between them. -/
def execTimes (i : Instr) : Nat → State → Host.Outcome State Fault Refusal
  | 0, s => .next s
  | n + 1, s =>
    match exec i s with
    | .next t => execTimes i n t
    | .fault f => .fault f
    | .refused r => .refused r

/-- All three clock gates are raised (70_reset_and_hazards.md R162). -/
def gatesUp (s : State) : Bool := s.gateTmr && s.gateAdc && s.gatePin

/-- Every register but `STATUS` reads as before (60_exceptions.md R135). -/
def RegistersKept (s t : State) : Prop := ∀ r : Reg, r ≠ .status → regRead r t = regRead r s

/-- The column `reset` of the field table (10_state.md R42), with the parameters `TMO_RESET` and `PIN_RESET`. -/
def resetColumn (cfg : Config) : Field → Word
  | .adCh _ => 31#32
  | .adTmo => cfg.tmoReset
  | .outLevel => bitWord cfg.pinReset
  | .pin => bitWord cfg.pinReset
  | .lpCode => 31#32
  | _ => 0#32

/-- What can be observed of the block in one state (00_scope.md R13, 10_state.md R39): the response values, the outputs, and a
`CallbackInvoke` not yet answered. -/
structure Observation where
  status : BitVec 4
  rdata : Word
  pinOut : Bool
  fault : Bool
  adcIrq : Bool
  invoked : Option Word
deriving DecidableEq, Repr

/-- The observables of a state. -/
def observe (s : State) : Observation where
  status := s.rspStatus
  rdata := s.rspData
  pinOut := pinOut s
  fault := faultOut s
  adcIrq := adcIrqOut s
  invoked := callbackEvent s

/-- A step that produces a response (30_encoding.md R63): a command in progress before, the port open after. The reset event
abandons a command without one (70_reset_and_hazards.md R157). -/
def responds (s t : State) : Bool :=
  decide (s.bg ≠ .idle ∧ t.bg = .idle ∧ nextTurn s ≠ .powerCycle)

/-! ### What a micro-step touches -/

/-- The clock gate that a micro-step of an iteration needs (43_control_loop.md R121: `GATE_ADC` when the slot is 0 or 1,
`GATE_PIN` always). -/
def loopGate : LoopPos → Option Gate
  | .line0 => none
  | .select slot _ _ => if slotOf slot.toNat = none then none else some .adc
  | .code _ _ _ => some .adc
  | .wait _ _ => some .adc
  | .poll _ _ _ _ => some .adc
  | .read _ _ => some .adc
  | .duty _ _ _ => none
  | .compare _ => none
  | .drive _ => some .pin

/-- The clock gate that a micro-step of `INIT` needs (43_control_loop.md R127: lines 1 to 5 and 7 `GATE_ADC`, lines 8 and 9
`GATE_TMR` when the index is 0 or 1). -/
def initGate (a : InitArgs) : InitPos → Option Gate
  | .line1 => some .adc
  | .line2 => some .adc
  | .line3 => some .adc
  | .line4 => some .adc
  | .line5 => if slotOf a.sSlot = none then none else some .adc
  | .line6 => none
  | .select => if slotOf a.sSlot = none then none else some .adc
  | .code _ => some .adc
  | .load _ => if chanOf a.tIndex = none then none else some .tmr
  | .chain _ _ => some .tmr
  | .arm _ _ => some .tmr
  | .runState _ _ => if chanOf a.tIndex = none then none else some .tmr
  | .callback _ _ => none

/-- The micro-steps of a dispatch that access a flag register (60_exceptions.md R141). -/
def readsOrWritesFlag : Isr → Bool
  | .line1 => true
  | .line2 _ => true
  | .line3 f0 _ => f0
  | .line4 _ f1 => f1
  | .line5 f0 f1 => !f0 && !f1
  | .line5b => true
  | _ => false

/-- The background context's next micro-step is a write of the code of slot `sl`, the start of a conversion
(42_conversion_sequencer.md R103, 20_memory.md R53 b): of `RALWR`, `ADSEL`, `LOOPIT`, `RUN` or `INIT`. -/
def WritesCode (sl : Slot) (s : State) : Prop :=
  match s.bg with
  | .idle => False
  | .run p => ∃ c m, p = .code sl c m
  | .exec k =>
    (∃ fid v, decode (latched s) = .ok (.ralwr fid v) ∧ fieldOf fid = some (.adCh sl) ∧ fieldLegal (.adCh sl) v = true) ∨
    (∃ slot code diff, decode (latched s) = .ok (.adsel slot code diff) ∧ slotOf slot = some sl ∧ k = .adselCode) ∨
    (∃ c m, decode (latched s) = .ok .loopit ∧ k = .loop (.code sl c m)) ∨
    (∃ a, decode (latched s) = .ok (.init a) ∧ k = .init (.code sl))

/-- The background context's next micro-step is a result read of slot `sl` (42_conversion_sequencer.md R107): of `ADREAD`, or
of line 2 of `LOOPIT` or `RUN`. -/
def ReadsResult (sl : Slot) (s : State) : Prop :=
  match s.bg with
  | .idle => False
  | .run p => ∃ s1, p = .read sl s1
  | .exec k =>
    (∃ slot, decode (latched s) = .ok (.adread slot) ∧ slotOf slot = some sl) ∨
    (∃ s1, decode (latched s) = .ok .loopit ∧ k = .loop (.read sl s1))

/-- Where a dispatch reads a channel's flag, clears it when it was read as 1, and writes it defensively: after how many
micro-steps from its entry (60_exceptions.md R141, R142; log 13). -/
def flagReadAt : Chan → Nat
  | .ch0 => 1
  | .ch1 => 2

/-- See `flagReadAt`: line 3 or 4. -/
def flagClearAt : Chan → Nat
  | .ch0 => 3
  | .ch1 => 4

/-- See `flagReadAt`: the two writes of line 5. -/
def flagDefendAt : Chan → Nat
  | .ch0 => 5
  | .ch1 => 6

/-- The other channel. -/
def otherChan : Chan → Chan
  | .ch0 => .ch1
  | .ch1 => .ch0

/-! ### The invariant -/

/-- A busy slot has its completion flag 0 and a code that is not 31 (10_state.md R43). -/
def SlotInv (v : ConvSlot) : Prop := v.busy = true → v.coco = false ∧ v.ch ≠ 31#5

/-- A wait in progress has polls left, fewer than its bound; an unbounded one counts nothing
(42_conversion_sequencer.md R104, R106). -/
def WaitInv (bound left : Word) : Prop :=
  (bound = 0#32 ∧ left = 0#32) ∨ (left ≠ 0#32 ∧ left.toNat < bound.toNat)

/-- While an iteration waits, its select gave `OK`, or it left the slot disabled with nothing started
(43_control_loop.md R124). -/
def SelectInv (v : ConvSlot) (s1 : Status) : Prop :=
  s1 = .ok ∨ (s1 = .invalidInputChannelCode ∧ v.ch = 31#5 ∧ v.coco = false)

/-- The statuses a finished iteration can have (43_control_loop.md R124). -/
def IterationStatus (st : Status) : Prop :=
  st = .ok ∨ st = .invalidChannelIndex ∨ st = .conversionTimeout

/-- What an iteration's position promises about its temporaries (43_control_loop.md R121 to R124): a result is read only
after its completion flag was read as 1, and an iteration without a good sample has forced the duty off. -/
def LoopInv (s : State) : LoopPos → Prop
  | .line0 => True
  | .select _ _ _ => True
  | .code _ _ _ => True
  | .wait sl s1 => SelectInv (s.conv sl) s1
  | .poll sl s1 bound left => SelectInv (s.conv sl) s1 ∧ WaitInv bound left
  | .read sl s1 => s1 = .ok ∧ (s.conv sl).coco = true
  | .duty s1 s2 _ => (s2 = .ok ∧ s1 = .ok) ∨ s2 = .invalidChannelIndex ∨ s2 = .conversionTimeout
  | .compare st => IterationStatus st ∧ (st ≠ .ok → s.duty = 0#7)
  | .drive st =>
    IterationStatus st ∧ (st ≠ .ok → s.duty = 0#7 ∧ s.outLevel = !s.cfg.activeLevel)

/-- The statuses of the two reporting stages of `INIT` (43_control_loop.md R127, R129). -/
def InitStatuses (s1 s2 : Status) : Prop :=
  (s1 = .ok ∨ s1 = .invalidChannelIndex ∨ s1 = .invalidInputChannelCode) ∧
    (s2 = .ok ∨ s2 = .invalidChannelIndex)

/-- A position of `INIT` fits its operands. -/
def InitInv (a : InitArgs) : InitPos → Prop
  | .code sl => slotOf a.sSlot = some sl
  | .load s1 => InitStatuses s1 .ok
  | .chain c s1 => chanOf a.tIndex = some c ∧ InitStatuses s1 .ok
  | .arm c s1 => chanOf a.tIndex = some c ∧ InitStatuses s1 .ok
  | .runState s1 s2 => InitStatuses s1 s2
  | .callback s1 s2 => InitStatuses s1 s2
  | _ => True

/-- `Exec(op, k)`: the micro-step belongs to the latched operation (10_state.md R36). -/
def MicroInv (s : State) (i : Instr) : Micro → Prop
  | .first => True
  | .tcfgChain => ∃ ch load chained ie, i = .tcfg ch load chained ie ∧ chanOf ch ≠ none
  | .tcfgArm => ∃ ch load chained ie, i = .tcfg ch load chained ie ∧ chanOf ch ≠ none
  | .tcfgRespond => ∃ ch load chained ie, i = .tcfg ch load chained ie ∧ chanOf ch ≠ none
  | .adselCode => ∃ slot code diff, i = .adsel slot code diff ∧ slotOf slot ≠ none
  | .adwaitPoll bound left => ∃ slot, i = .adwait slot ∧ slotOf slot ≠ none ∧ WaitInv bound left
  | .pwmPin => i = .pwmupd
  | .loop p => i = .loopit ∧ p ≠ .line0 ∧ LoopInv s p
  | .init p => ∃ a, i = .init a ∧ allPresent a = true ∧ InitInv a p

/-- What the position of the background context promises (10_state.md R36). -/
def BgInv (s : State) : Prop :=
  match s.bg with
  | .idle => True
  | .exec k => k = .first ∨ ∃ i, decode (latched s) = .ok i ∧ MicroInv s i k
  | .run p => decode (latched s) = .ok .run ∧ LoopInv s p

/-- An external handler is awaited only for a handle that is neither 0 nor `CB_TICK`, and the handle is the
one in `CB` (60_exceptions.md R143, R145). -/
def IsrInv (s : State) : Prop :=
  match s.isr with
  | .waiting h => h ≠ 0#32 ∧ h ≠ s.cfg.cbTick ∧ h = s.cb
  | _ => True

/-- The invariant (10_state.md R43, R41, R36, R37). -/
structure BlockInv (s : State) : Prop where
  /-- "The tick counter is always in `[0, CYCLE_LENGTH-1]`." -/
  tick_lt : s.tick.toNat < 100
  /-- `DUTY <= DUTY_MAX`. -/
  duty_le : s.duty.toNat ≤ 100
  slotA : SlotInv s.adA
  slotB : SlotInv s.adB
  /-- Bit 0 of `ST_ERR` is always 0 (10_state.md R41). -/
  sticky_zero : s.stErr.getLsbD 0 = false
  /-- Codes 7 to 15 are never produced (60_exceptions.md R131). -/
  last_le : s.stLast.toNat ≤ 6
  bg : BgInv s
  isr : IsrInv s

end Sys2Proof.Machine
end

