-- ==== Sys2Proof/Certificates/Slice0/Obligations.lean ====
section
/-! DEFINITION. The statements for the provers. A statement that gives a next state as a record gives its frame with
it: every field that the record does not name is the one before. -/

open Sys2Proof Sys2Proof.Machine

/-! ### Encoding -/

/-- Decoding the words of a well-formed instruction gives it back (30_encoding.md R64, R67 to R70, R76). -/
def Obligations.DecodeEncodeRoundTrip : Prop :=
  ∀ i : Instr, i.wellFormed = true → decode (encode i) = .ok i

/-- The other direction: a command that decodes is, in every bit that its format uses or requires to be 0, the encoding
of the instruction it decodes to (30_encoding.md R65, R67, R73). -/
def Obligations.DecodedCommandIsReproduced : Prop :=
  ∀ (c : Command) (i : Instr), decode c = .ok i →
    i.wellFormed = true ∧ (encode i).cw = c.cw ∧
      (usesArg0 i = true → (encode i).arg0 = c.arg0) ∧
      (usesArg1 i = true → (encode i).arg1 = c.arg1)

/-- "A command word `w` selects the row when `(w and mask) = match`" (30_encoding.md R68): no word selects two rows, and
the decoder accepts a word (or rejects only its `ARG0`) exactly when some row selects it. -/
def Obligations.CommandWordSelectsOneRow : Prop :=
  (∀ (w : Word) (p q : Op), w &&& p.mask = p.pattern → w &&& q.mask = q.pattern → p = q) ∧
    ∀ c : Command, (∃ p : Op, c.cw &&& p.mask = p.pattern) ↔
      (decode c ≠ .error .reservedOp ∧ decode c ≠ .error .reservedBits)

/-- A few words written out from the formats of 30_encoding.md R67, R68, R70 decode to their instructions. -/
def Obligations.WrittenOutWordsDecode : Prop :=
  decode ⟨0b00000001_00000010_00000000_00000000#32, 1#32, 0#32⟩ = .ok (.ralwr 0x02 1#32) ∧
  decode ⟨0b00010000_00000001_00000001_00000000#32, 2000#32, 0#32⟩ = .ok (.tcfg 1 2000#32 true false) ∧
  decode ⟨0b00010001_00000001_00000000_00000000#32, 0#32, 0#32⟩ = .ok (.tstart 1) ∧
  decode ⟨0b00100000_00000001_00000001_00011000#32, 0#32, 0#32⟩ = .ok (.adsel 1 24 true) ∧
  decode ⟨0b00110010_00000000_00000000_00000000#32, 0xFFFFFFFF#32, 0xFFFFFFFF#32⟩ = .ok .loopit ∧
  decode ⟨0x3401F91A#32, 0x00000151#32, 0x000003E8#32⟩ =
    .ok (.init ⟨true, true, true, 1#2, 0#2, true, 2#2, 1, 26, true, true, 1, false, true, false, 1000#32⟩) ∧
  decode ⟨0x3400E608#32, 0x00000080#32, 0#32⟩ = .error .reservedArg0 ∧
  decode ⟨0x31000001#32, 0#32, 0#32⟩ = .error .reservedBits ∧
  decode ⟨0x35000000#32, 0#32, 0#32⟩ = .error .reservedOp

/-! ### The step -/

/-- The background context's turn runs the latched command: `step` is `exec` of the decoded instruction on the state
without the turn that was taken. Inside `RUN` it is `exec .run` (10_state.md R36, 30_encoding.md R76). Whose turn it
is comes from the list of turns (log 1). -/
def Obligations.StepRunsDecodedInstruction : Prop :=
  (∀ (s : State) (i : Instr) (k : Micro), s.isr = .none → nextTurn s = .background → s.bg = .exec k →
    decode (latched s) = .ok i → step s = exec i (afterTurn s)) ∧
  (∀ (s : State) (p : LoopPos), s.isr = .none → nextTurn s = .background → s.bg = .run p →
    step s = exec .run (afterTurn s))

/-- Acceptance (30_encoding.md R63, 45_cross_family_laws.md R180): whenever `bg = Idle`, whatever the state, in a
dispatch and while an external handler is awaited too, the port latches the three words of the command the host
presents and goes to `Exec(op, 1)`; with no command presented nothing changes. -/
def Obligations.IdleAcceptsCommand : Prop :=
  (∀ (s : State) (c : Command) (rest : List Command), nextTurn s = .background →
    s.bg = .idle → s.commands = c :: rest →
    step s = .next { s with
      cw := c.cw, arg0 := c.arg0, arg1 := c.arg1, commands := rest, bg := .exec .first
      turns := s.turns.tail }) ∧
  (∀ s : State, nextTurn s = .background → s.bg = .idle → s.commands = [] →
    step s = .next { s with turns := s.turns.tail })

/-- A command is taken only when `bg = Idle`, only by a turn of the background context, one at a time and in the host's
order (30_encoding.md R63, R80). -/
def Obligations.CommandsTakenOnlyWhenIdle : Prop :=
  ∀ s t : State, step s = .next t → t.commands ≠ s.commands →
    s.bg = .idle ∧ nextTurn s = .background ∧
      ∃ c, s.commands = c :: t.commands ∧ latched t = c ∧ t.bg = .exec .first

/-- A reserved `OP`, or a 1 in a bit that the format requires to be 0, or (in `INIT`) a 1 in `ARG0[7]` or `ARG0[31:16]`:
the response is `IllegalCommand` with `RDATA = 0`, and nothing changes but `ST_LAST` and `ST_ERR` (30_encoding.md
R72, R73). That the rejection is the command's first micro-step is DEDUCED (log 18). -/
def Obligations.IllegalCommandChangesOnlyStatus : Prop :=
  ∀ s : State, s.isr = .none → nextTurn s = .background → s.bg = .exec .first →
    (Op.ofCode (bits s.cw 31 24) = none ∨
      ∃ op, Op.ofCode (bits s.cw 31 24) = some op ∧
        (s.cw &&& op.mask ≠ op.pattern ∨ (op = .init ∧ s.arg0 &&& 0xFFFF0080#32 ≠ 0#32))) →
    step s = .next { s with
      rspStatus := 6#4, rspData := 0#32, stLast := 6#4, stErr := s.stErr ||| 0b1000000#7
      bg := .idle, turns := s.turns.tail }

/-- The one way a step stops: the fault of an ungated access, and then that gate is 0. No step is refused, and with all
three gates raised every step goes on (20_memory.md R62). That a hardware agent with its gate 0 is not enabled,
instead of faulting, is DEDUCED (log 16). -/
def Obligations.StepStopsOnlyOnUngatedAccess : Prop :=
  ∀ s : State,
    (∀ r, step s ≠ .refused r) ∧
    (∀ f, step s = .fault f → ∃ g, f = .ungatedAccess g ∧ s.gate g = false) ∧
    (gatesUp s = true → ∃ t, step s = .next t)

/-- A command, or a micro-step of the dispatch, faults when the gate of a register it accesses is 0 (20_memory.md R62,
R134 order 3 before 4): `TCFG`, `TSTART`, `TSTOP`, `ADSEL`, `ADWAIT`, `ADREAD`, `PWMUPD`, `RALRD` and `RALWR`, the
entry of a dispatch, every line of it that reads or writes a flag, and every micro-step of `LOOPIT`, `RUN` and
`INIT` that 43_control_loop.md R121, R127 say needs a gate. The test at every micro-step that touches a gated
register is DEDUCED (log 15). -/
def Obligations.UngatedAccessFaults : Prop :=
  ∀ s : State,
    (s.gateTmr = false →
      (∀ ch c load chained ie, chanOf ch = some c →
        (s.bg ≠ .exec .tcfgRespond → exec (.tcfg ch load chained ie) s = .fault (.ungatedAccess .tmr)) ∧
        exec (.tstart ch) s = .fault (.ungatedAccess .tmr) ∧
        exec (.tstop ch) s = .fault (.ungatedAccess .tmr)) ∧
      (s.isr = .none → nextTurn s = .interrupt → irqLine s = true →
        step s = .fault (.ungatedAccess .tmr)) ∧
      (s.isr = .none → nextTurn s = .spurious → s.cfg.allowSpurious = true →
        step s = .fault (.ungatedAccess .tmr)) ∧
      (nextTurn s = .interrupt → readsOrWritesFlag s.isr = true → step s = .fault (.ungatedAccess .tmr))) ∧
    (s.gateAdc = false → ∀ slot sl code diff, slotOf slot = some sl →
      exec (.adsel slot code diff) s = .fault (.ungatedAccess .adc) ∧
      exec (.adwait slot) s = .fault (.ungatedAccess .adc) ∧
      exec (.adread slot) s = .fault (.ungatedAccess .adc)) ∧
    (s.gatePin = false → exec .pwmupd s = .fault (.ungatedAccess .pin)) ∧
    (∀ fid f g v, fieldOf fid = some f → regGate (fieldReg f) = some g → s.gate g = false →
      exec (.ralrd fid) s = .fault (.ungatedAccess g) ∧
      (fieldAcc f ≠ .ro → exec (.ralwr fid v) s = .fault (.ungatedAccess g))) ∧
    (∀ p g, loopGate p = some g → s.gate g = false →
      (s.bg = .exec (.loop p) → exec .loopit s = .fault (.ungatedAccess g)) ∧
      (s.bg = .run p → exec .run s = .fault (.ungatedAccess g))) ∧
    (∀ a p g, initGate a p = some g → s.gate g = false → s.bg = .exec (.init p) →
      exec (.init a) s = .fault (.ungatedAccess g))

/-- The invariant of 10_state.md R43 (and what the positions of the two contexts carry) holds after every step from
every state in which it holds. -/
def Obligations.StepKeepsInvariant : Prop :=
  ∀ s t : State, BlockInv s → step s = .next t → BlockInv t

/-- The invariant holds after reset, for every configuration and every level of the clock gates. -/
def Obligations.ResetHoldsInvariant : Prop :=
  (∀ cfg gTmr gAdc gPin, BlockInv (State.resetWith cfg gTmr gAdc gPin)) ∧ BlockInv State.reset

/-- The reset event (70_reset_and_hazards.md R157, R159): every field takes the value of the `reset` column, a command
and a dispatch in progress are abandoned, no conversion is in flight, no interrupt is requested; the clock gates are
the host's. That the presented commands and the turns still to come outlive the reset is the model's choice (log
25). -/
def Obligations.PowerCycleResetsEveryField : Prop :=
  ∀ s : State, nextTurn s = .powerCycle → ∃ t, step s = .next t ∧
    (∀ f, getField f t = resetColumn s.cfg f) ∧
    t.bg = .idle ∧ t.isr = .none ∧ (∀ sl, (t.conv sl).busy = false) ∧ irqLine t = false ∧
    (∀ g, t.gate g = s.gate g) ∧ t.cfg = s.cfg ∧ t.commands = s.commands ∧ t.turns = s.turns.tail

/-! ### Register Access Layer -/

/-- `FieldWrite` replaces the field's bits and no other bit, and a value of 0 is a pure clear (40_ral.md R84;
00_scope.md R11). -/
def Obligations.FieldWriteTouchesOnlyItsBits : Prop :=
  ∀ (f : Field) (v : Word) (s : State), fieldAcc f = .rw →
    regRead (fieldReg f) (fieldWrite f v s) =
      (regRead (fieldReg f) s &&& ~~~(maskOf (fieldWidth f) <<< fieldOff f)) |||
        ((v &&& maskOf (fieldWidth f)) <<< fieldOff f) ∧
    regRead (fieldReg f) (fieldWrite f 0#32 s) =
      regRead (fieldReg f) s &&& ~~~(maskOf (fieldWidth f) <<< fieldOff f) ∧
    (∀ r, r ≠ fieldReg f → regRead r (fieldWrite f v s) = regRead r s)

/-- `RALWR` of a legal value to a read-write field completes: the field holds the value, every other field keeps its own
but `ST_LAST` and, when the field is a channel code, the completion flag that the start clears (40_ral.md R82,
42_conversion_sequencer.md R103). That a start clears the completion flag is PRESUMED (log 23). -/
def Obligations.RalwrStoresLegalValue : Prop :=
  ∀ (fid : Nat) (f : Field) (v : Word) (s : State), fieldOf fid = some f → fieldAcc f = .rw →
    fieldLegal f v = true → (∀ g, regGate (fieldReg f) = some g → s.gate g = true) →
    ∃ t, exec (.ralwr fid v) s = .next t ∧ getField f t = v ∧
      (∀ g, g ≠ f → g ≠ .stLast → (∀ sl, f = .adCh sl → g ≠ .adCoco sl) → getField g t = getField g s) ∧
      (∀ sl, f = .adCh sl → (t.conv sl).coco = false ∧ (t.conv sl).busy = decide (v ≠ 31#32)) ∧
      (∀ sl, f ≠ .adCh sl → (t.conv sl).busy = (s.conv sl).busy) ∧
      t.stLast = 0#4 ∧ t.rspStatus = 0#4 ∧ t.rspData = 0#32 ∧ t.bg = .idle ∧
      t.isr = s.isr ∧ t.cfg = s.cfg ∧ (∀ g, t.gate g = s.gate g) ∧ latched t = latched s ∧
      t.commands = s.commands ∧ t.turns = s.turns ∧ t.draws = s.draws

/-- `RALWR` to a write-1-to-clear field: each 1 bit of the value clears that bit, a 0 keeps it (40_ral.md R82,
10_state.md R22, R41). -/
def Obligations.RalwrClearsFlagBits : Prop :=
  (∀ (fid : Nat) (c : Chan) (s : State) (b : Bool), fieldOf fid = some (.tIf c) → s.gateTmr = true →
    exec (.ralwr fid (bitWord b)) s = .next { s.setTimer c { s.timer c with
        flag := (s.timer c).flag && !b } with
      rspStatus := 0#4, rspData := 0#32, stLast := 0#4, bg := .idle }) ∧
  (∀ (v : BitVec 7) (s : State),
    exec (.ralwr 0x81 (v.setWidth 32)) s = .next { s with
      stErr := s.stErr &&& ~~~v, rspStatus := 0#4, rspData := 0#32, stLast := 0#4, bg := .idle })

/-- "Writing field value `x` (within legal range) and immediately reading the field returns `x`", for every read-write
field (40_ral.md R86). -/
def Obligations.RalRoundTrip : Prop :=
  ∀ (fid : Nat) (f : Field) (v : Word) (s : State), fieldOf fid = some f → fieldAcc f = .rw →
    fieldLegal f v = true → (∀ g, regGate (fieldReg f) = some g → s.gate g = true) →
    ∃ t u, exec (.ralwr fid v) s = .next t ∧ exec (.ralrd fid) t = .next u ∧
      u.rspStatus = 0#4 ∧ u.rspData = v

/-- A rejected `RALWR` writes nothing: an unknown id or a read-only field responds `IllegalCommand`, a value outside the
legal set `InvalidFieldValue`; every register but `STATUS` is unchanged (40_ral.md R82, R85). -/
def Obligations.RalwrRejectionWritesNothing : Prop :=
  (∀ (fid : Nat) (v : Word) (s : State),
    (fieldOf fid = none ∨ ∃ f, fieldOf fid = some f ∧ fieldAcc f = .ro) →
    ∃ t, exec (.ralwr fid v) s = .next t ∧ t = { s with
        rspStatus := 6#4, rspData := 0#32, stLast := 6#4, stErr := s.stErr ||| 0b1000000#7, bg := .idle } ∧
      RegistersKept s t) ∧
  (∀ (fid : Nat) (f : Field) (v : Word) (s : State), fieldOf fid = some f → fieldAcc f ≠ .ro →
    (∀ g, regGate (fieldReg f) = some g → s.gate g = true) → fieldLegal f v = false →
    ∃ t, exec (.ralwr fid v) s = .next t ∧ t = { s with
        rspStatus := 5#4, rspData := 0#32, stLast := 5#4, stErr := s.stErr ||| 0b0100000#7, bg := .idle } ∧
      RegistersKept s t)

/-- `RALRD` (40_ral.md R83): the field's value with every bit above its width 0, for every field whatever its access
kind, and no side effect; an unknown id responds `IllegalCommand`; an ungated register faults. -/
def Obligations.RalrdReturnsFieldValue : Prop :=
  (∀ (fid : Nat) (s : State), fieldOf fid = none → exec (.ralrd fid) s = .next { s with
    rspStatus := 6#4, rspData := 0#32, stLast := 6#4, stErr := s.stErr ||| 0b1000000#7, bg := .idle }) ∧
  (∀ (fid : Nat) (f : Field) (s : State), fieldOf fid = some f →
    ((∀ g, regGate (fieldReg f) = some g → s.gate g = true) →
      exec (.ralrd fid) s = .next { s with
        rspStatus := 0#4, rspData := getField f s, stLast := 0#4, bg := .idle }) ∧
    (∀ g, regGate (fieldReg f) = some g → s.gate g = false →
      exec (.ralrd fid) s = .fault (.ungatedAccess g)) ∧
    (getField f s).toNat < 2 ^ fieldWidth f)

/-! ### Timer Scheduler -/

/-- `TCFG` (41_timer_scheduler.md R90): an invalid index is rejected with no state change, an ungated timer faults, and
otherwise three micro-steps write the load value, the chain bit and the interrupt enable, in this order, and then
the response is written; the run state, the flag and the other channel keep their values. Arming a channel whose
flag is set raises the line at once, and a dispatch may start before the response. -/
def Obligations.TcfgWritesLoadChainArm : Prop :=
  ∀ (ch : Nat) (load : Word) (chained ie : Bool) (s : State),
    (chanOf ch = none → exec (.tcfg ch load chained ie) s = .next { s with
      rspStatus := 1#4, rspData := 0#32, stLast := 1#4, stErr := s.stErr ||| 0b0000010#7, bg := .idle }) ∧
    (∀ c, chanOf ch = some c → s.gateTmr = false → s.bg ≠ .exec .tcfgRespond →
      exec (.tcfg ch load chained ie) s = .fault (.ungatedAccess .tmr)) ∧
    (∀ c, chanOf ch = some c → s.gateTmr = true → s.bg = .exec .first →
      ∃ s1 s2 s3 s4, exec (.tcfg ch load chained ie) s = .next s1 ∧
        exec (.tcfg ch load chained ie) s1 = .next s2 ∧ exec (.tcfg ch load chained ie) s2 = .next s3 ∧
        exec (.tcfg ch load chained ie) s3 = .next s4 ∧
        s1 = { s.setTimer c { s.timer c with load := load } with bg := .exec .tcfgChain } ∧
        s2 = { s.setTimer c { s.timer c with load := load, chn := chained } with bg := .exec .tcfgArm } ∧
        s3 = { s.setTimer c { s.timer c with load := load, chn := chained, ie := ie } with
          bg := .exec .tcfgRespond } ∧
        s4 = { s.setTimer c { s.timer c with load := load, chn := chained, ie := ie } with
          rspStatus := 0#4, rspData := 0#32, stLast := 0#4, bg := .idle } ∧
        ((s.timer c).flag = true → ie = true → irqLine s3 = true ∧
          ∀ rest, s.isr = .none →
            step { s3 with turns := .interrupt :: rest } = .next { s3 with isr := .line1, turns := rest }))

/-- `TSTART` and `TSTOP` (41_timer_scheduler.md R91, R92): the enable bit and nothing else; `start` sets it whatever it
was, `stop` clears it, a pending flag stays. An invalid index is rejected, an ungated timer faults. -/
def Obligations.TstartTstopSetRunState : Prop :=
  ∀ (ch : Nat) (s : State),
    (chanOf ch = none →
      exec (.tstart ch) s = .next { s with
        rspStatus := 1#4, rspData := 0#32, stLast := 1#4, stErr := s.stErr ||| 0b0000010#7, bg := .idle } ∧
      exec (.tstop ch) s = .next { s with
        rspStatus := 1#4, rspData := 0#32, stLast := 1#4, stErr := s.stErr ||| 0b0000010#7, bg := .idle }) ∧
    (∀ c, chanOf ch = some c → s.gateTmr = false →
      exec (.tstart ch) s = .fault (.ungatedAccess .tmr) ∧ exec (.tstop ch) s = .fault (.ungatedAccess .tmr)) ∧
    (∀ c, chanOf ch = some c → s.gateTmr = true →
      exec (.tstart ch) s = .next { s.setTimer c { s.timer c with en := true } with
        rspStatus := 0#4, rspData := 0#32, stLast := 0#4, bg := .idle } ∧
      exec (.tstop ch) s = .next { s.setTimer c { s.timer c with en := false } with
        rspStatus := 0#4, rspData := 0#32, stLast := 0#4, bg := .idle })

/-- "For all timer channel indices not in {0,1}, any configuration/start/stop call leaves hardware-visible state
byte-for-byte unchanged" but for the register `STATUS` at offset 0x58, whatever the gates and the other operands are
(41_timer_scheduler.md R94). -/
def Obligations.InvalidTimerIndexLeavesImage : Prop :=
  ∀ (ch : Nat) (i : Instr) (s : State), 2 ≤ ch →
    ((∃ load chained ie, i = .tcfg ch load chained ie) ∨ i = .tstart ch ∨ i = .tstop ch) →
    ∃ t, exec i s = .next t ∧ t.rspStatus = 1#4 ∧ t.stErr.getLsbD 1 = true ∧
      (∀ offset, offset / 4 * 4 ≠ 0x58 → imageByte t offset = imageByte s offset) ∧
      (∀ sl, (t.conv sl).busy = (s.conv sl).busy) ∧ t.isr = s.isr

/-- `CBREG` (41_timer_scheduler.md R93): every handle is accepted and replaces the slot; no timer field is touched and
no gate is needed. -/
def Obligations.CbregReplacesCallback : Prop :=
  ∀ (h : Word) (s : State), exec (.cbreg h) s = .next { s with
    cb := h, rspStatus := 0#4, rspData := 0#32, stLast := 0#4, bg := .idle }

/-! ### Conversion Sequencer -/

/-- `resolve` (42_conversion_sequencer.md R98, R99), for every configuration: the single-ended column, the differential
column, idempotence, and that a reserved code is never left. -/
def Obligations.ResolveFollowsChannelTable : Prop :=
  ∀ (cfg : Config) (code : Nat),
    resolve cfg code false = (if code ≤ 31 ∧ code ≠ 24 ∧ code ≠ 25 ∧ code ≠ 28 then code else 31) ∧
    resolve cfg code true = (if code ≤ cfg.diffChMax ∨ code = 26 ∨ code = 27 ∨ code = cfg.posRefCode
      then code else 31) ∧
    ∀ diff, resolve cfg (resolve cfg code diff) diff = resolve cfg code diff ∧
      resolve cfg code diff ≤ 31 ∧ resolve cfg code diff ≠ 24 ∧ resolve cfg code diff ≠ 25 ∧
      resolve cfg code diff ≠ 28

/-- `ADSEL` (42_conversion_sequencer.md R100, R103): the mode first, then the resolved code, which clears the completion
flag and starts a conversion unless it is 31; `OK` exactly when the written code is the requested one, and `RDATA`
is the written code either way; the other slot, `AD_IEN` and `AD_R` keep their values. That a start clears the
completion flag is PRESUMED (log 23). -/
def Obligations.AdselWritesModeThenCode : Prop :=
  ∀ (slot code : Nat) (diff : Bool) (s : State),
    (slotOf slot = none → exec (.adsel slot code diff) s = .next { s with
      rspStatus := 1#4, rspData := 0#32, stLast := 1#4, stErr := s.stErr ||| 0b0000010#7, bg := .idle }) ∧
    (∀ sl, slotOf slot = some sl → s.gateAdc = false →
      exec (.adsel slot code diff) s = .fault (.ungatedAccess .adc)) ∧
    (∀ sl, slotOf slot = some sl → s.gateAdc = true → s.bg = .exec .first →
      ∃ s1 s2, exec (.adsel slot code diff) s = .next s1 ∧ exec (.adsel slot code diff) s1 = .next s2 ∧
        s1 = { s.setConv sl { s.conv sl with diff := diff } with bg := .exec .adselCode } ∧
        s2 = { s.setConv sl { s.conv sl with
              diff := diff, ch := BitVec.ofNat 5 (resolve s.cfg code diff), coco := false
              busy := decide (resolve s.cfg code diff ≠ 31) } with
          rspStatus := if resolve s.cfg code diff = code then 0#4 else 2#4
          rspData := BitVec.ofNat 32 (resolve s.cfg code diff)
          stLast := if resolve s.cfg code diff = code then 0#4 else 2#4
          stErr := if resolve s.cfg code diff = code then s.stErr else s.stErr ||| 0b0000100#7
          bg := .idle })

/-- A slot index outside {0, 1}: `ADSEL`, `ADWAIT` and `ADREAD` respond `InvalidChannelIndex` with `RDATA = 0` and leave
every register but `STATUS` unchanged, whatever the gates are (42_conversion_sequencer.md R100, R104, R107). -/
def Obligations.InvalidSlotLeavesRegisters : Prop :=
  ∀ (slot : Nat) (i : Instr) (s : State), 2 ≤ slot →
    ((∃ code diff, i = .adsel slot code diff) ∨ i = .adwait slot ∨ i = .adread slot) →
    ∃ t, exec i s = .next t ∧ t = { s with
        rspStatus := 1#4, rspData := 0#32, stLast := 1#4, stErr := s.stErr ||| 0b0000010#7, bg := .idle } ∧
      RegistersKept s t

/-- `ADWAIT` (42_conversion_sequencer.md R104): a poll that reads the flag as 1 ends the wait with `OK`, at the first
poll or at a later one, and nothing is written. That the first poll is the micro-step that reads `AD_TMO` is DEDUCED
(log 11). -/
def Obligations.AdwaitEndsWhenFlagReadsOne : Prop :=
  ∀ (slot : Nat) (sl : Slot) (s : State), slotOf slot = some sl → s.gateAdc = true →
    (s.conv sl).coco = true → exec (.adwait slot) s = .next { s with
      rspStatus := 0#4, rspData := 0#32, stLast := 0#4, bg := .idle }

/-- "With `AD_TMO = n > 0` it makes at most `n` polls": with the flag 0 throughout, exactly `n` micro-steps and
`ConversionTimeout` after the `n`-th (42_conversion_sequencer.md R104). That `AD_TMO` is read in the micro-step of
the first poll is DEDUCED (log 11). -/
def Obligations.AdwaitTimesOutAfterBound : Prop :=
  ∀ (slot : Nat) (sl : Slot) (s : State), slotOf slot = some sl → s.gateAdc = true →
    (s.conv sl).coco = false → s.bg = .exec .first → s.adTmo ≠ 0#32 →
    execTimes (.adwait slot) s.adTmo.toNat s = .next { s with
      rspStatus := 4#4, rspData := 0#32, stLast := 4#4, stErr := s.stErr ||| 0b0010000#7, bg := .idle } ∧
    ∀ n, 0 < n → n < s.adTmo.toNat → ∃ t left, execTimes (.adwait slot) n s = .next t ∧
      t.bg = .exec (.adwaitPoll s.adTmo left) ∧ left.toNat = s.adTmo.toNat - n

/-- The legacy wait (42_conversion_sequencer.md R106): with `AD_TMO = 0` and the flag never 1, `ADWAIT` polls for ever,
whatever number of micro-steps it takes; nothing is written and no response is produced. That `AD_TMO` is read in
the micro-step of the first poll is DEDUCED (log 11). -/
def Obligations.AdwaitUnboundedPollsForever : Prop :=
  ∀ (slot : Nat) (sl : Slot) (s : State) (n : Nat), slotOf slot = some sl → s.gateAdc = true →
    (s.conv sl).coco = false → s.bg = .exec .first → s.adTmo = 0#32 →
    execTimes (.adwait slot) (n + 1) s = .next { s with bg := .exec (.adwaitPoll 0#32 0#32) }

/-- `ADREAD` (42_conversion_sequencer.md R107, R108): the result of an idle slot; any 16-bit value, and no error, while
the slot is busy; the completion flag is cleared only under `COCO_CLEAR_ON_READ`; the result register is not
changed. The value of a busy slot is the free value of log 9; the statement holds for every value of it. -/
def Obligations.AdreadReturnsResult : Prop :=
  ∀ (slot : Nat) (sl : Slot) (s : State), slotOf slot = some sl → s.gateAdc = true →
    ∃ t, exec (.adread slot) s = .next t ∧ t.rspStatus = 0#4 ∧ t.stLast = 0#4 ∧ t.bg = .idle ∧
      ((s.conv sl).busy = false → t.rspData = (s.conv sl).result.setWidth 32) ∧
      t.rspData.toNat < 2 ^ 16 ∧
      t.conv sl = { s.conv sl with
        coco := if s.cfg.cocoClearOnRead = true then false else (s.conv sl).coco } ∧
      (∀ sm, sm ≠ sl → t.conv sm = s.conv sm) ∧
      (∀ r, r ≠ .status → r ≠ .adSc sl → regRead r t = regRead r s) ∧ t.stErr = s.stErr ∧ t.isr = s.isr

/-- The completion flag's writers (42_conversion_sequencer.md R111): only `ConvComplete` of a busy slot sets it; it
falls only at a write of the slot's code, which starts a conversion unless the code is 31, at a result read of the
slot under `COCO_CLEAR_ON_READ`, or at reset. That a start clears the flag is PRESUMED (log 23). -/
def Obligations.CompletionFlagHasThreeWriters : Prop :=
  ∀ (s t : State) (sl : Slot), step s = .next t →
    ((s.conv sl).coco = false → (t.conv sl).coco = true →
      (∃ x, nextTurn s = .convComplete sl x) ∧ s.gateAdc = true ∧ (s.conv sl).busy = true) ∧
    ((s.conv sl).coco = true → (t.conv sl).coco = false →
      nextTurn s = .powerCycle ∨
        (nextTurn s = .background ∧ s.isr = .none ∧
          ((WritesCode sl s ∧ (t.conv sl).busy = decide ((t.conv sl).ch ≠ 31#5)) ∨
            (ReadsResult sl s ∧ s.cfg.cocoClearOnRead = true))))

/-- `ConvComplete(s, x)` (42_conversion_sequencer.md R110): enabled when `GATE_ADC = 1` and the slot is busy, for a
value below `2^RES_BITS(AD_MODE)` in single-ended mode, for every value in differential mode, and for every value
while the slot holds a reserved code put in raw (R112 b); it writes the result, sets the flag, ends the conversion,
and nothing else. An idle slot completes nothing. Which values are admitted when is DEDUCED (log 17); what an event
that is not enabled does, nothing, is the model's form (log 1, log 16). -/
def Obligations.ConvCompleteWritesResult : Prop :=
  ∀ (s : State) (sl : Slot) (x : BitVec 16), nextTurn s = .convComplete sl x →
    (s.gateAdc = true → (s.conv sl).busy = true →
      ((s.conv sl).diff = true ∨ (s.conv sl).ch = 24#5 ∨ (s.conv sl).ch = 25#5 ∨ (s.conv sl).ch = 28#5 ∨
        x.toNat < 2 ^ resBits s.cfg s.adMode) →
      step s = .next { s.setConv sl { s.conv sl with result := x, coco := true, busy := false } with
        turns := s.turns.tail }) ∧
    ((s.gateAdc = false ∨ (s.conv sl).busy = false) → step s = .next { s with turns := s.turns.tail }) ∧
    ((s.conv sl).diff = false → (s.conv sl).ch ≠ 24#5 → (s.conv sl).ch ≠ 25#5 → (s.conv sl).ch ≠ 28#5 →
      2 ^ resBits s.cfg s.adMode ≤ x.toNat → step s = .next { s with turns := s.turns.tail })

/-! ### Control Loop -/

/-- `duty` is non-decreasing and clamped, and at most 99 between the thresholds, for every configuration
(43_control_loop.md R115). -/
def Obligations.DutyIsMonotoneAndClamped : Prop :=
  ∀ cfg : Config,
    (∀ v w, v ≤ w → dutyOf cfg v ≤ dutyOf cfg w) ∧ (∀ v, dutyOf cfg v ≤ 100) ∧
      (∀ v, cfg.tLow < v → v < cfg.tHigh → dutyOf cfg v ≤ 99)

/-- `DMAP` (43_control_loop.md R114, R117): three regions of the whole operand with one pair of thresholds, truncating
division; nothing but the response changes. -/
def Obligations.DmapReturnsDuty : Prop :=
  ∀ (v : Word) (s : State), exec (.dmap v) s = .next { s with
    rspStatus := 0#4, stLast := 0#4, bg := .idle
    rspData := if v.toNat ≤ s.cfg.tLow then 0#32
      else if s.cfg.tHigh ≤ v.toNat then 100#32
      else BitVec.ofNat 32 ((v.toNat - s.cfg.tLow) * 100 / (s.cfg.tHigh - s.cfg.tLow)) }

/-- The rendered waveform (43_control_loop.md R130): over the 100 ticks of a cycle the level is active 0 times at duty
0, `d + 1` times at duty 1 to 99, and 100 times at duty 100, in either wiring. -/
def Obligations.ActiveTicksPerCycle : Prop :=
  ∀ (cfg : Config) (d : Nat), d ≤ 100 →
    ((List.range 100).filter fun t => levelOf cfg t d = cfg.activeLevel).length =
      (if d = 0 then 0 else if d = 100 then 100 else d + 1)

/-- `PWMUPD` (43_control_loop.md R119): the comparator on one read of `TICK`, then the pin; an ungated pin faults before
either. -/
def Obligations.PwmupdDrivesComparatorLevel : Prop :=
  ∀ s : State,
    (s.gatePin = false → exec .pwmupd s = .fault (.ungatedAccess .pin)) ∧
    (s.gatePin = true → s.bg = .exec .first → ∃ s1 s2, exec .pwmupd s = .next s1 ∧ exec .pwmupd s1 = .next s2 ∧
      s1 = { s with
        outLevel := if s.duty ≠ 0#7 ∧ s.tick ≤ s.duty then s.cfg.activeLevel else !s.cfg.activeLevel
        bg := .exec .pwmPin } ∧
      s2 = { s with
        outLevel := if s.duty ≠ 0#7 ∧ s.tick ≤ s.duty then s.cfg.activeLevel else !s.cfg.activeLevel
        pin := if s.duty ≠ 0#7 ∧ s.tick ≤ s.duty then s.cfg.activeLevel else !s.cfg.activeLevel
        rspStatus := 0#4, rspData := 0#32, stLast := 0#4, bg := .idle })

/-- A good iteration of `LOOPIT` (43_control_loop.md R121): on a valid slot and code, when `n` polls find the flag 0 and
the converter completes with `x` before the next one, with the bound not reached (`n < AD_TMO`) or absent (`AD_TMO =
0`), the iteration writes the sample's duty, compares it with `TICK`, drives the pin, and responds `OK` with `RDATA
= DUTY`. That the start clears a flag left from an earlier conversion, so that the polls find 0, is PRESUMED (log
23). The count of micro-steps is DEDUCED (log 11, log 12). -/
def Obligations.LoopitRendersSample : Prop :=
  ∀ (s : State) (sl : Slot) (x : BitVec 16) (n : Nat) (rest : List Turn),
    s.isr = .none → s.bg = .exec .first → decode (latched s) = .ok .loopit →
    s.gateAdc = true → s.gatePin = true → slotOf s.lpSlot.toNat = some sl →
    resolve s.cfg s.lpCode.toNat s.lpDiff = s.lpCode.toNat → s.lpCode ≠ 31#8 →
    (s.lpDiff = true ∨ x.toNat < 2 ^ resBits s.cfg s.adMode) →
    (s.adTmo = 0#32 ∨ n < s.adTmo.toNat) →
    s.turns = List.replicate (3 + n) Turn.background ++
      Turn.convComplete sl x :: (List.replicate 5 Turn.background ++ rest) →
    core.run (9 + n) s = .next { s.setConv sl { s.conv sl with
          ch := s.lpCode.setWidth 5, diff := s.lpDiff, result := x, busy := false
          coco := !s.cfg.cocoClearOnRead } with
      duty := BitVec.ofNat 7 (dutyOf s.cfg x.toNat)
      outLevel := levelOf s.cfg s.tick.toNat (dutyOf s.cfg x.toNat)
      pin := levelOf s.cfg s.tick.toNat (dutyOf s.cfg x.toNat)
      rspStatus := 0#4, rspData := BitVec.ofNat 32 (dutyOf s.cfg x.toNat), stLast := 0#4
      bg := .idle, turns := rest }

/-- "A conversion timeout always yields the chosen safe fallback": a `LOOPIT` whose conversion never completes makes
`AD_TMO` polls, forces the duty to 0 and the pin to the inactive level whatever `TICK` is, and reports
`ConversionTimeout` (with `InvalidInputChannelCode` recorded beside it when the code was rewritten)
(43_control_loop.md R121, R123, R124). The count of micro-steps is DEDUCED (log 11, log 12); the start's clear is
PRESUMED (log 23). -/
def Obligations.LoopitTimeoutForcesOff : Prop :=
  ∀ (s : State) (sl : Slot), s.bg = .exec .first → s.gateAdc = true → s.gatePin = true →
    slotOf s.lpSlot.toNat = some sl → s.adTmo ≠ 0#32 →
    execTimes .loopit (s.adTmo.toNat + 6) s = .next { s.setConv sl { s.conv sl with
          ch := BitVec.ofNat 5 (resolve s.cfg s.lpCode.toNat s.lpDiff), diff := s.lpDiff, coco := false
          busy := decide (resolve s.cfg s.lpCode.toNat s.lpDiff ≠ 31) } with
      duty := 0#7, outLevel := !s.cfg.activeLevel, pin := !s.cfg.activeLevel
      rspStatus := 4#4, rspData := 0#32, stLast := 4#4
      stErr := (if resolve s.cfg s.lpCode.toNat s.lpDiff = s.lpCode.toNat then s.stErr
        else s.stErr ||| 0b0000100#7) ||| 0b0010000#7
      bg := .idle }

/-- A `LOOPIT` on an invalid slot touches no converter register, needs no `GATE_ADC`, forces the duty off and reports
`InvalidChannelIndex` (43_control_loop.md R121, R123, R124). The count of micro-steps is DEDUCED (log 12). -/
def Obligations.LoopitInvalidSlotForcesOff : Prop :=
  ∀ s : State, s.bg = .exec .first → s.gatePin = true → slotOf s.lpSlot.toNat = none →
    execTimes .loopit 5 s = .next { s with
      duty := 0#7, outLevel := !s.cfg.activeLevel, pin := !s.cfg.activeLevel
      rspStatus := 1#4, rspData := 0#32, stLast := 1#4, stErr := s.stErr ||| 0b0000010#7
      bg := .idle }

/-- A `LOOPIT` (or an iteration of `RUN`) whose status is not `OK` leaves `DUTY = 0` and the pin at the inactive level,
in every state the invariant admits, whatever happened during the iteration (60_exceptions.md R135). The invariant
is the model's own; it rules out positions that no run reaches. That `RUN` records `ST_LAST` in the micro-step that
drives the pin is DEDUCED (log 20). -/
def Obligations.FailedIterationLeavesPinInactive : Prop :=
  ∀ (s t : State) (st : Status), BlockInv s → st ≠ .ok →
    ((s.bg = .exec (.loop (.drive st)) ∧ exec .loopit s = .next t) ∨
      (s.bg = .run (.drive st) ∧ exec .run s = .next t)) →
    t.duty = 0#7 ∧ t.pin = (!t.cfg.activeLevel) ∧ t.stLast = BitVec.ofNat 4 (statusCode st)

/-- Inside an iteration of `LOOPIT` or of `RUN` the result is read only after the wait has returned with the flag 1, so
the read gives the slot's result and never a free value, and the duty is computed from it (43_control_loop.md R122,
20_memory.md R60). The invariant is the model's own; it rules out positions that no run reaches. -/
def Obligations.IterationReadsFinishedResult : Prop :=
  ∀ (s : State) (sl : Slot) (s1 : Status), BlockInv s → s.gateAdc = true →
    (s.bg = .exec (.loop (.read sl s1)) → exec .loopit s = .next { s.setConv sl { s.conv sl with
        coco := if s.cfg.cocoClearOnRead = true then false else true } with
      bg := .exec (.loop (.duty .ok .ok ((s.conv sl).result.setWidth 32))) }) ∧
    (s.bg = .run (.read sl s1) → exec .run s = .next { s.setConv sl { s.conv sl with
        coco := if s.cfg.cocoClearOnRead = true then false else true } with
      bg := .run (.duty .ok .ok ((s.conv sl).result.setWidth 32)) })

/-- `RUN` (43_control_loop.md R125): its first micro-step goes to `Run(0)`; the last line of an iteration drives the
pin, records the status in `ST_LAST` and `ST_ERR`, and goes back to line 0 with no response. The split into
micro-steps is DEDUCED (log 20). -/
def Obligations.RunEntersAndRepeats : Prop :=
  (∀ s : State, s.bg = .exec .first → exec .run s = .next { s with bg := .run .line0 }) ∧
  (∀ (s : State) (st : Status), s.bg = .run (.drive st) → s.gatePin = true →
    exec .run s = .next { s with
      pin := s.outLevel, stLast := BitVec.ofNat 4 (statusCode st), stErr := s.stErr ||| stickyBit st
      bg := .run .line0 })

/-- An iteration of `RUN` is an iteration of `LOOPIT`: from the same line they fault alike, and otherwise they leave the
same state but for the position and the response (43_control_loop.md R125). The split into micro-steps is DEDUCED
(log 20). -/
def Obligations.RunIterationIsLoopit : Prop :=
  ∀ (p : LoopPos) (s : State),
    (∀ f, exec .loopit { s with bg := .exec (.loop p) } = .fault f ↔
      exec .run { s with bg := .run p } = .fault f) ∧
    (∀ t, exec .loopit { s with bg := .exec (.loop p) } = .next t →
      ∃ u, exec .run { s with bg := .run p } = .next u ∧
        ({ u with bg := t.bg, rspStatus := t.rspStatus, rspData := t.rspData, stLast := t.stLast } = t) ∧
        u.rspStatus = s.rspStatus ∧ u.rspData = s.rspData ∧
        ((∃ q, t.bg = .exec (.loop q) ∧ u.bg = .run q ∧ u.stLast = s.stLast) ∨
          (t.bg = .idle ∧ u.bg = .run .line0 ∧ u.stLast = t.stLast)))

/-- Nothing but the reset takes `bg` out of `Run`; a `RUN` never responds and no further command is accepted
(43_control_loop.md R126, 30_encoding.md R80). -/
def Obligations.RunNeverLeaves : Prop :=
  ∀ (s t : State) (p : LoopPos), step s = .next t → s.bg = .run p → nextTurn s ≠ .powerCycle →
    (∃ q, t.bg = .run q) ∧ t.rspStatus = s.rspStatus ∧ t.rspData = s.rspData ∧
      t.commands = s.commands ∧ latched t = latched s

/-- `INIT` with all three records present (43_control_loop.md R127, R129): eleven micro-steps, one more for a valid slot
and two more for a valid timer index; every stage runs whatever the others report; the response carries the first
non-OK status and `ST_ERR` records both. The count of micro-steps is DEDUCED (log 24); the start's clear is PRESUMED
(log 23). -/
def Obligations.InitRunsEveryStage : Prop :=
  ∀ (a : InitArgs) (s : State), s.bg = .exec .first → allPresent a = true →
    s.gateAdc = true → (chanOf a.tIndex ≠ none → s.gateTmr = true) →
    ∀ s1 s2 : Status,
    s1 = (if slotOf a.sSlot = none then .invalidChannelIndex
      else if resolve s.cfg a.sCode a.sDiff = a.sCode then .ok else .invalidInputChannelCode) →
    s2 = (if chanOf a.tIndex = none then .invalidChannelIndex else .ok) →
    ∃ t, execTimes (.init a)
        (11 + (if slotOf a.sSlot = none then 0 else 1) + (if chanOf a.tIndex = none then 0 else 2)) s =
          .next t ∧
      (∀ sl, t.conv sl = if slotOf a.sSlot = some sl then { s.conv sl with
          ien := a.sIen, diff := a.sDiff, ch := BitVec.ofNat 5 (resolve s.cfg a.sCode a.sDiff)
          coco := false, busy := decide (resolve s.cfg a.sCode a.sDiff ≠ 31) } else s.conv sl) ∧
      (∀ c, t.timer c = if chanOf a.tIndex = some c then { s.timer c with
          load := a.tLoad, en := a.tEnabled, ie := a.tIe, chn := a.tChained } else s.timer c) ∧
      t = { s with
        adA := t.adA, adB := t.adB, tmr0 := t.tmr0, tmr1 := t.tmr1
        adIclk := a.kIclk, adDiv := a.kDiv, adMode := a.kMode, adSmplt := a.kSmplt
        lpSlot := BitVec.ofNat 8 a.sSlot, lpCode := BitVec.ofNat 8 a.sCode, lpDiff := a.sDiff
        cb := s.cfg.cbTick
        rspStatus := BitVec.ofNat 4 (statusCode (if s1 = .ok then s2 else s1)), rspData := 0#32
        stLast := BitVec.ofNat 4 (statusCode (if s1 = .ok then s2 else s1))
        stErr := s.stErr ||| stickyBit s1 ||| stickyBit s2, bg := .idle }

/-- The last micro-step of the two long commands is their response: line 5 of `LOOPIT` drives the pin and answers the
iteration's status with `RDATA = DUTY`; line 10 of `INIT` registers the tick handler and answers the first non-OK
status (43_control_loop.md R121, R127). That the response is written in the same micro-step as that last register
write is the model's reading, DEDUCED (log 32). -/
def Obligations.LongCommandsEndInResponse : Prop :=
  (∀ (s : State) (st : Status), s.bg = .exec (.loop (.drive st)) → s.gatePin = true →
    exec .loopit s = .next { s with
      pin := s.outLevel, rspStatus := BitVec.ofNat 4 (statusCode st), rspData := s.duty.setWidth 32
      stLast := BitVec.ofNat 4 (statusCode st), stErr := s.stErr ||| stickyBit st, bg := .idle }) ∧
  (∀ (a : InitArgs) (s : State) (s1 s2 : Status), s.bg = .exec (.init (.callback s1 s2)) →
    exec (.init a) s = .next { s with
      cb := s.cfg.cbTick, rspStatus := BitVec.ofNat 4 (statusCode (if s1 = .ok then s2 else s1))
      rspData := 0#32, stLast := BitVec.ofNat 4 (statusCode (if s1 = .ok then s2 else s1))
      stErr := s.stErr ||| stickyBit (if s1 = .ok then s2 else s1), bg := .idle })

/-- `INIT` with a configuration reference absent (43_control_loop.md R128): the test is made first and alone,
`NullConfiguration` is the response, and nothing is written, whatever the gates and the other fields hold. -/
def Obligations.InitNullWritesNothing : Prop :=
  ∀ (a : InitArgs) (s : State), s.bg = .exec .first →
    (a.pClk = false ∨ a.pSlot = false ∨ a.pTmr = false) →
    exec (.init a) s = .next { s with
      rspStatus := 3#4, rspData := 0#32, stLast := 3#4, stErr := s.stErr ||| 0b0001000#7, bg := .idle }

/-! ### Interrupts -/

/-- Entry (60_exceptions.md R138, R148, R150): with no dispatch in progress a turn of the interrupt context starts one
exactly when the line is high; nothing is saved, no register changes, and the position of the background context is
not touched. No step starts one otherwise but the event `Spurious`: `adc_irq` never does, whatever its level
(42_conversion_sequencer.md R112 a). That entry is a micro-step of its own is DEDUCED (log 13). -/
def Obligations.InterruptEntryTouchesNothing : Prop :=
  (∀ s : State, nextTurn s = .interrupt → s.isr = .none → s.gateTmr = true →
    (((s.tmr0.flag = true ∧ s.tmr0.ie = true) ∨ (s.tmr1.flag = true ∧ s.tmr1.ie = true)) →
      step s = .next { s with isr := .line1, turns := s.turns.tail }) ∧
    (¬((s.tmr0.flag = true ∧ s.tmr0.ie = true) ∨ (s.tmr1.flag = true ∧ s.tmr1.ie = true)) →
      step s = .next { s with turns := s.turns.tail })) ∧
  ∀ s t : State, step s = .next t → s.isr = .none → t.isr ≠ .none → t.isr = .line1 ∧
    ((nextTurn s = .interrupt ∧
        ((s.tmr0.flag = true ∧ s.tmr0.ie = true) ∨ (s.tmr1.flag = true ∧ s.tmr1.ie = true))) ∨
      (nextTurn s = .spurious ∧ s.cfg.allowSpurious = true))

/-- `TimerExpire(c)` (60_exceptions.md R137): enabled when `GATE_TMR = 1` and the channel runs; it sets the flag and
nothing else, whatever the interrupt enable, the load value and the chain bit are; a stopped channel never sets its
flag. That the flag is set whatever the interrupt enable is, is PRESUMED (log 22); a turn not enabled changes
nothing (log 16). -/
def Obligations.TimerExpireSetsFlag : Prop :=
  ∀ (s : State) (c : Chan), nextTurn s = .timerExpire c →
    (s.gateTmr = true → (s.timer c).en = true →
      step s = .next { s.setTimer c { s.timer c with flag := true } with turns := s.turns.tail }) ∧
    ((s.gateTmr = false ∨ (s.timer c).en = false) → step s = .next { s with turns := s.turns.tail })

/-- A whole dispatch (60_exceptions.md R141, R143, R144): from entry to return, undisturbed, both flags are clear, a
registered tick handler has counted exactly one tick however many channels signalled, no callback counts none, and
nothing else has changed. The count of micro-steps is DEDUCED (log 13). -/
def Obligations.DispatchClearsFlagsAndTicksOnce : Prop :=
  ∀ (s : State) (rest : List Turn), s.isr = .none → s.gateTmr = true → irqLine s = true →
    (s.cb = 0#32 ∨ s.cb = s.cfg.cbTick) → s.tick.toNat < 100 →
    s.turns = List.replicate 8 Turn.interrupt ++ rest →
    core.run 8 s = .next { s with
      tmr0 := { s.tmr0 with flag := false }, tmr1 := { s.tmr1 with flag := false }
      tick := if s.cb = 0#32 then s.tick else BitVec.ofNat 7 ((s.tick.toNat + 1) % 100)
      turns := rest }

/-- A spurious firing (60_exceptions.md R140, R141): with both flags 0 the dispatch invokes the callback and counts one
tick; line 5 writes both flags, so that an expiry of each channel between the reads and line 5 is cleared. That an
expiry sets the flag of a channel whose interrupt enable is 0 too is PRESUMED (log 22). With `ALLOW_SPURIOUS` false
the event does nothing, which is the form of a turn that is not enabled (log 1). The count of micro-steps is DEDUCED
(log 13). -/
def Obligations.SpuriousFiringCountsOneTick : Prop :=
  ∀ (s : State) (rest : List Turn), s.isr = .none → s.tick.toNat < 100 →
    (s.cfg.allowSpurious = true → s.gateTmr = true → s.tmr0.flag = false → s.tmr1.flag = false →
      s.cb = s.cfg.cbTick → s.turns = Turn.spurious :: List.replicate 8 Turn.interrupt ++ rest →
      core.run 9 s = .next { s with
        tick := BitVec.ofNat 7 ((s.tick.toNat + 1) % 100), turns := rest }) ∧
    (s.cfg.allowSpurious = true → s.gateTmr = true → s.tmr0.flag = false → s.tmr1.flag = false →
      s.tmr0.en = true → s.tmr1.en = true → s.cb = s.cfg.cbTick →
      s.turns = ([.spurious, .interrupt, .interrupt, .timerExpire .ch0, .timerExpire .ch1, .interrupt, .interrupt,
        .interrupt, .interrupt, .interrupt, .interrupt] : List Turn) ++ rest →
      (∃ u, core.run 5 s = .next u ∧ u.tmr0.flag = true ∧ u.tmr1.flag = true) ∧
      core.run 11 s = .next { s with
        tick := BitVec.ofNat 7 ((s.tick.toNat + 1) % 100), turns := rest }) ∧
    (s.cfg.allowSpurious = false → s.turns = Turn.spurious :: rest →
      step s = .next { s with turns := rest })

/-- Any other handler (60_exceptions.md R143, R145): line 6 emits `CallbackInvoke(h)` for the handle in `CB` and waits;
`TICK` does not advance; while it waits neither context performs a micro-step; the host's return leads to line 7,
and line 7 returns to the background context. The wait as a position left by the host's turn is the model's form
(log 14). -/
def Obligations.ExternalHandlerIsAwaited : Prop :=
  ∀ s : State,
    (s.isr = .line6 → nextTurn s = .interrupt → s.cb ≠ 0#32 → s.cb ≠ s.cfg.cbTick →
      step s = .next { s with isr := .waiting s.cb, turns := s.turns.tail }) ∧
    (∀ h, s.isr = .waiting h →
      (nextTurn s = .interrupt ∨ (nextTurn s = .background ∧ s.bg ≠ .idle) ∨ nextTurn s = .spurious) →
      step s = .next { s with turns := s.turns.tail }) ∧
    (∀ h, s.isr = .waiting h → nextTurn s = .handlerReturn →
      step s = .next { s with isr := .line7, turns := s.turns.tail }) ∧
    (s.isr = .line7 → nextTurn s = .interrupt → step s = .next { s with isr := .none, turns := s.turns.tail })

/-- "After `n` dispatches with `CB = CB_TICK` from `TICK = t0`, `TICK = (t0 + n) mod CYCLE_LENGTH`" (60_exceptions.md
R144): the tick handler invoked `n` times counts `n` ticks and writes nothing else, and so do `n` whole dispatches,
each for an expiry of an armed channel. The count of micro-steps of a dispatch is DEDUCED (log 13). -/
def Obligations.TickIsCyclic : Prop :=
  (∀ (s : State) (n : Nat), s.tick.toNat < 100 →
    tickHandler^[n] s = { s with tick := BitVec.ofNat 7 ((s.tick.toNat + n) % 100) }) ∧
  ∀ (s : State) (c : Chan) (n : Nat) (rest : List Turn), s.isr = .none → s.gateTmr = true →
    (s.timer c).en = true → (s.timer c).ie = true → s.tmr0.flag = false → s.tmr1.flag = false →
    s.cb = s.cfg.cbTick → s.tick.toNat < 100 →
    s.turns = (List.replicate n (Turn.timerExpire c :: List.replicate 8 Turn.interrupt)).flatten ++ rest →
    core.run (9 * n) s = .next { s with
      tick := BitVec.ofNat 7 ((s.tick.toNat + n) % 100), turns := rest }

/-- The sole writer of the tick counter (20_memory.md R56, 10_state.md R31): a step changes `TICK` only at line 6 of a
dispatch with the tick handler registered, by one tick with the wrap, or at reset. -/
def Obligations.TickWrittenOnlyByTickHandler : Prop :=
  ∀ s t : State, step s = .next t → t.tick ≠ s.tick →
    nextTurn s = .powerCycle ∨
      (nextTurn s = .interrupt ∧ s.isr = .line6 ∧ s.cb = s.cfg.cbTick ∧
        (s.tick.toNat < 100 → t.tick.toNat = (s.tick.toNat + 1) % 100))

/-- Sole writers: only background operations write `DUTY`, `OUT_LEVEL` and `PIN` (20_memory.md R56), and a step that
changes one of them, or the output `pin_out`, is a background turn outside any dispatch, with a command in progress,
or the reset. `pin_out` is `PIN` and `adc_irq` is 1 exactly when a slot has both its completion flag and `AD_IEN`
(10_state.md R39); a step raises `adc_irq` only as the completion of a slot with `AD_IEN = 1` or as a background
micro-step that sets an `AD_IEN`. Only the host's turn changes a clock gate, to the level it gives and nothing else
with it (10_state.md R38, 60_exceptions.md R156); nothing changes the parameters. -/
def Obligations.OutputAndGatesHaveSoleWriters : Prop :=
  (∀ s t : State, step s = .next t →
    ((t.duty ≠ s.duty ∨ t.outLevel ≠ s.outLevel ∨ t.pin ≠ s.pin ∨ pinOut t ≠ pinOut s) →
      nextTurn s = .powerCycle ∨ (nextTurn s = .background ∧ s.isr = .none ∧ s.bg ≠ .idle)) ∧
    (adcIrqOut s = false → adcIrqOut t = true →
      (∃ sl x, nextTurn s = .convComplete sl x ∧ s.gateAdc = true ∧ (s.conv sl).busy = true ∧
        (s.conv sl).ien = true) ∨
      (nextTurn s = .background ∧ s.isr = .none ∧ s.bg ≠ .idle ∧
        ∃ sl, (s.conv sl).coco = true ∧ (s.conv sl).ien = false ∧ (t.conv sl).ien = true)) ∧
    (∀ g, t.gate g ≠ s.gate g → nextTurn s = .setGate g (t.gate g)) ∧
    t.cfg = s.cfg) ∧
  (∀ s : State, pinOut s = s.pin ∧
    (adcIrqOut s = true ↔ ∃ sl, (s.conv sl).coco = true ∧ (s.conv sl).ien = true)) ∧
  ∀ (s : State) (g : Gate) (v : Bool), nextTurn s = .setGate g v →
    step s = .next { s.setGate g v with turns := s.turns.tail }

/-- What the interrupt context writes (60_exceptions.md R152, R148, R151): a turn of it changes the two flags, `TICK`
and its own position, and nothing else: no status, no error bit, no position, operand or temporary of the background
context. -/
def Obligations.InterruptContextFrame : Prop :=
  ∀ s t : State, nextTurn s = .interrupt → step s = .next t →
    t = { s with
      tmr0 := { s.tmr0 with flag := t.tmr0.flag }, tmr1 := { s.tmr1 with flag := t.tmr1.flag }
      tick := t.tick, isr := t.isr, turns := s.turns.tail }

/-- During a dispatch no micro-step of the background context is performed (20_memory.md R55): its turn changes nothing
while a command is in progress, and on an idle block at most the port accepts a command (45_cross_family_laws.md
R180); and no dispatch starts, whatever the line is (60_exceptions.md R150). -/
def Obligations.DispatchExcludesBackgroundAndNesting : Prop :=
  ∀ s : State, s.isr ≠ .none →
    (nextTurn s = .background → s.bg ≠ .idle → step s = .next { s with turns := s.turns.tail }) ∧
    (nextTurn s = .background → s.bg = .idle → ∃ t, step s = .next t ∧ (t.bg = .idle ∨ t.bg = .exec .first) ∧
      t = { s with
        cw := t.cw, arg0 := t.arg0, arg1 := t.arg1, commands := t.commands, bg := t.bg
        turns := s.turns.tail }) ∧
    (nextTurn s = .spurious → step s = .next { s with turns := s.turns.tail }) ∧
    (∀ t, step s = .next t → t.isr ≠ .line1 ∨ (s.isr = .line1 ∧ nextTurn s ≠ .interrupt))

/-- What becomes of an expiry of channel `c` after `n` micro-steps of a dispatch, `n` past the read of its flag
(60_exceptions.md R142), for both channels. When both flags were read as 0, an expiry before the defensive write is
cleared and lost. When the other channel's flag was read as 1 and this one's as 0, it survives the dispatch. When
this channel's flag was read as 1, it survives exactly when it comes after the clear, and merges with the pending
one before. One tick is counted in each case. That an expiry sets the flag of a channel whose interrupt enable is 0
too is PRESUMED (log 22). The count of micro-steps is DEDUCED (log 13). -/
def Obligations.LateExpiryIsLostKeptOrMerged : Prop :=
  ∀ (s : State) (c : Chan) (n : Nat) (rest : List Turn), s.isr = .none → s.gateTmr = true →
    (s.timer c).en = true → s.cb = s.cfg.cbTick → s.tick.toNat < 100 → flagReadAt c ≤ n →
    (s.cfg.allowSpurious = true → s.tmr0.flag = false → s.tmr1.flag = false → n < flagDefendAt c →
      s.turns = Turn.spurious :: (List.replicate n Turn.interrupt ++
        Turn.timerExpire c :: (List.replicate (8 - n) Turn.interrupt ++ rest)) →
      core.run 10 s = .next { s with
        tick := BitVec.ofNat 7 ((s.tick.toNat + 1) % 100), turns := rest }) ∧
    (irqLine s = true → n ≤ 7 →
      s.turns = Turn.interrupt :: (List.replicate n Turn.interrupt ++
        Turn.timerExpire c :: (List.replicate (7 - n) Turn.interrupt ++ rest)) →
      core.run 9 s = .next { (s.setTimer (otherChan c) { s.timer (otherChan c) with flag := false }).setTimer c
          { s.timer c with flag := !(s.timer c).flag || decide (flagClearAt c ≤ n) } with
        tick := BitVec.ofNat 7 ((s.tick.toNat + 1) % 100), turns := rest })

/-- A sticky error bit falls only by a `RALWR ST_ERR` with a 1 in that bit, or at reset (10_state.md R41,
60_exceptions.md R133). -/
def Obligations.StickyErrorClearedOnlyByWrite : Prop :=
  ∀ (s t : State) (k : Nat), step s = .next t → s.stErr.getLsbD k = true → t.stErr.getLsbD k = false →
    nextTurn s = .powerCycle ∨
      (nextTurn s = .background ∧ s.isr = .none ∧
        ∃ v : Word, decode (latched s) = .ok (.ralwr 0x81 v) ∧ v.getLsbD k = true)

/-- Every response records its status (30_encoding.md R66, 60_exceptions.md R133): a step that produces a response
leaves `ST_LAST` equal to the response value, and when the code is not 0 the sticky bit of that code and the output
`fault` are 1. -/
def Obligations.ResponseRecordsStatus : Prop :=
  ∀ s t : State, step s = .next t → responds s t = true →
    t.stLast = t.rspStatus ∧ t.rspStatus.toNat ≤ 6 ∧
      (t.rspStatus ≠ 0#4 → t.stErr.getLsbD t.rspStatus.toNat = true ∧ faultOut t = true)
end

