-- ==== Sys2Proof/Laws/Bits.lean ====
section
/-! SUPPORT. Bit-field arithmetic on 32-bit words: what a merged field reads as, and what its neighbours read as
(40_ral.md R84). -/

namespace Sys2Proof.Machine

open Sys2Proof

theorem maskOf_getLsbD (w i : Nat) : (maskOf w).getLsbD i = (decide (i < w) && decide (i < 32)) := by
  unfold maskOf
  rw [BitVec.getLsbD_ofNat, Nat.testBit_two_pow_sub_one, Bool.and_comm]

/-- The merged word has the new value in the field. -/
theorem merged_own_bits (o w : Nat) (v old : Word) (h : o + w ≤ 32) :
    (((old &&& ~~~(maskOf w <<< o)) ||| ((v &&& maskOf w) <<< o)) >>> o) &&& maskOf w =
      v &&& maskOf w := by
  apply BitVec.eq_of_getLsbD_eq
  intro i hi
  simp only [BitVec.getLsbD_and, BitVec.getLsbD_or, BitVec.getLsbD_not, BitVec.getLsbD_ushiftRight,
    BitVec.getLsbD_shiftLeft, maskOf_getLsbD]
  by_cases h1 : i < w
  · have h2 : o + i < 32 := by omega
    simp [h1, h2, hi]
  · simp [h1]

/-- The merged word has the old value in every disjoint field. -/
theorem merged_other_bits (o w o' w' : Nat) (v old : Word) (hd : o + w ≤ o' ∨ o' + w' ≤ o) :
    (((old &&& ~~~(maskOf w <<< o)) ||| ((v &&& maskOf w) <<< o)) >>> o') &&& maskOf w' =
      (old >>> o') &&& maskOf w' := by
  apply BitVec.eq_of_getLsbD_eq
  intro i hi
  simp only [BitVec.getLsbD_and, BitVec.getLsbD_or, BitVec.getLsbD_not, BitVec.getLsbD_ushiftRight,
    BitVec.getLsbD_shiftLeft, maskOf_getLsbD]
  by_cases h1 : i < w'
  · have hb : BitVec.getLsbD old (o' + i) = true → o' + i < 32 := fun h => BitVec.lt_of_getLsbD h
    by_cases h3 : o' + i < o
    · simp [h1, h3, hi]
      cases hq : old.getLsbD (o' + i) <;> simp_all
    · have h4 : ¬ (o' + i - o < w) := by omega
      simp [h1, h3, h4, hi]
      cases hq : old.getLsbD (o' + i) <;> simp_all
  · simp [h1]

/-- Bits shifted to one field read as 0 in a disjoint field. -/
theorem shifted_other_bits (o w o' w' : Nat) (x : Word) (hx : x &&& maskOf w = x)
    (hd : o + w ≤ o' ∨ o' + w' ≤ o) : ((x <<< o) >>> o') &&& maskOf w' = 0#32 := by
  rw [← hx]
  apply BitVec.eq_of_getLsbD_eq
  intro i hi
  simp only [BitVec.getLsbD_and, BitVec.getLsbD_ushiftRight, BitVec.getLsbD_shiftLeft, maskOf_getLsbD]
  by_cases h1 : i < w'
  · by_cases h3 : o' + i < o
    · simp [h3]
    · have h4 : ¬ (o' + i - o < w) := by omega
      simp [h4]
  · simp [h1]

/-- Bits shifted to a field read back there. -/
theorem shifted_own_bits (o w : Nat) (x : Word) (hx : x &&& maskOf w = x) (h : o + w ≤ 32) :
    ((x <<< o) >>> o) &&& maskOf w = x := by
  conv_rhs => rw [← hx]
  apply BitVec.eq_of_getLsbD_eq
  intro i hi
  simp only [BitVec.getLsbD_and, BitVec.getLsbD_ushiftRight, BitVec.getLsbD_shiftLeft, maskOf_getLsbD]
  by_cases h1 : i < w
  · have h2 : o + i < 32 := by omega
    simp [h1, h2, hi]
  · simp [h1]

theorem setWidth_and_mask (n : Nat) (x : BitVec n) :
    (x.setWidth 32) &&& maskOf n = x.setWidth 32 := by
  apply BitVec.eq_of_getLsbD_eq
  intro i hi
  simp only [BitVec.getLsbD_and, BitVec.getLsbD_setWidth, maskOf_getLsbD]
  cases hx : x.getLsbD i
  · simp
  · have := BitVec.lt_of_getLsbD hx
    simp [this, hi]

theorem mask_setWidth (n : Nat) (v : Word) : (v &&& maskOf n).setWidth n = v.setWidth n := by
  apply BitVec.eq_of_getLsbD_eq
  intro i hi
  simp only [BitVec.getLsbD_and, BitVec.getLsbD_setWidth, maskOf_getLsbD]
  by_cases h : i < 32
  · simp [hi, h]
  · have : v.getLsbD i = false := BitVec.getLsbD_of_ge v i (by omega)
    simp [this]

theorem setWidth_setWidth_mask (n : Nat) (v : Word) :
    (v.setWidth n).setWidth 32 = v &&& maskOf n := by
  apply BitVec.eq_of_getLsbD_eq
  intro i hi
  simp only [BitVec.getLsbD_and, BitVec.getLsbD_setWidth, maskOf_getLsbD]
  by_cases h : i < n <;> simp [h, hi]

theorem bitWord_and_mask (b : Bool) : bitWord b &&& maskOf 1 = bitWord b := by
  cases b <;> decide

@[simp] theorem bitWord_getLsbD_zero (b : Bool) : (bitWord b).getLsbD 0 = b := by
  cases b <;> rfl

@[simp] theorem bitWord_getElem_zero (b : Bool) : (bitWord b)[0] = b := by
  cases b <;> rfl

theorem mask_getLsbD_zero (v : Word) : (v &&& maskOf 1).getLsbD 0 = v.getLsbD 0 := by
  simp [maskOf_getLsbD]

theorem bitWord_getLsbD (v : Word) : bitWord (v.getLsbD 0) = v &&& maskOf 1 := by
  apply BitVec.eq_of_getLsbD_eq
  intro i hi
  simp only [BitVec.getLsbD_and, maskOf_getLsbD]
  by_cases h : i = 0
  · subst h
    rw [bitWord_getLsbD_zero]
    simp
  · have h2 : (bitWord (v.getLsbD 0)).getLsbD i = false := by
      cases v.getLsbD 0 <;> simp [bitWord, h]
    rw [h2]
    simp [h]

theorem and_maskOf_full (v : Word) : v &&& maskOf 32 = v := by
  apply BitVec.eq_of_getLsbD_eq
  intro i hi
  simp [maskOf_getLsbD, hi]

/-- A value below `2^n` fits its field. -/
theorem and_maskOf_of_lt (n : Nat) (v : Word) (h : v.toNat < 2 ^ n) : v &&& maskOf n = v := by
  apply BitVec.eq_of_getLsbD_eq
  intro i hi
  simp only [BitVec.getLsbD_and, maskOf_getLsbD]
  by_cases h1 : i < n
  · simp [h1, hi]
  · have : v.getLsbD i = false := by
      rw [BitVec.getLsbD]
      exact Nat.testBit_lt_two_pow (Nat.lt_of_lt_of_le h (Nat.pow_le_pow_right (by decide) (by omega)))
    simp [this]

end Sys2Proof.Machine
end

