-- ==== Sys2Proof/Laws/Decode.lean ====
section
/-! SUPPORT. The fields of a packed command word read back, and the opcode map is a function of `OP` (30_encoding.md R64, R68). -/

namespace Sys2Proof

/-- The bits of a packed command word are those of its four bytes (30_encoding.md R64). -/
theorem packCw_getLsbD (op a f c i : Nat) :
    (packCw op a f c).getLsbD i =
      if i < 8 then c.testBit i
      else if i < 16 then f.testBit (i - 8)
      else if i < 24 then a.testBit (i - 16)
      else decide (i < 32) && op.testBit (i - 24) := by
  have hpack : packCw op a f c = BitVec.ofNat 32
      (2 ^ 24 * (op % 2 ^ 8) + (2 ^ 16 * (a % 2 ^ 8) + (2 ^ 8 * (f % 2 ^ 8) + c % 2 ^ 8))) := by
    unfold packCw
    congr 1
    omega
  have hc : c % 2 ^ 8 < 2 ^ 8 := Nat.mod_lt _ (by decide)
  have hf : f % 2 ^ 8 < 2 ^ 8 := Nat.mod_lt _ (by decide)
  have ha : a % 2 ^ 8 < 2 ^ 8 := Nat.mod_lt _ (by decide)
  have h1 : 2 ^ 8 * (f % 2 ^ 8) + c % 2 ^ 8 < 2 ^ 16 := by omega
  have h2 : 2 ^ 16 * (a % 2 ^ 8) + (2 ^ 8 * (f % 2 ^ 8) + c % 2 ^ 8) < 2 ^ 24 := by omega
  rw [hpack, BitVec.getLsbD_ofNat, Nat.testBit_two_pow_mul_add _ h2, Nat.testBit_two_pow_mul_add _ h1,
    Nat.testBit_two_pow_mul_add _ hc]
  simp only [Nat.testBit_mod_two_pow]
  by_cases h8 : i < 8
  · simp [h8, show i < 16 by omega, show i < 24 by omega, show i < 32 by omega]
  · by_cases h16 : i < 16
    · simp [h8, h16, show i < 24 by omega, show i < 32 by omega, show i - 8 < 8 by omega]
    · by_cases h24 : i < 24
      · simp [h8, h16, h24, show i < 32 by omega, show i - 16 < 8 by omega]
      · by_cases h32 : i < 32
        · simp [h8, h16, h24, h32, show i - 24 < 8 by omega]
        · simp [h8, h16, h24, h32]

theorem packCw_toNat (op a f c : Nat) :
    (packCw op a f c).toNat = op % 256 * 2 ^ 24 + a % 256 * 2 ^ 16 + f % 256 * 2 ^ 8 + c % 256 := by
  unfold packCw
  rw [BitVec.toNat_ofNat, Nat.mod_eq_of_lt]
  omega

/-- `OP` of a packed word. -/
@[simp] theorem bits_packCw_op (op a f c : Nat) : bits (packCw op a f c) 31 24 = op % 256 := by
  rw [bits, packCw_toNat, Nat.shiftRight_eq_div_pow]
  omega

/-- `A` of a packed word. -/
@[simp] theorem fieldA_packCw (op a f c : Nat) : fieldA (packCw op a f c) = a % 256 := by
  rw [fieldA, bits, packCw_toNat, Nat.shiftRight_eq_div_pow]
  omega

/-- `C` of a packed word. -/
@[simp] theorem fieldC_packCw (op a f c : Nat) : fieldC (packCw op a f c) = c % 256 := by
  rw [fieldC, bits, packCw_toNat, Nat.shiftRight_eq_div_pow]
  omega

/-- `F[k]` of a packed word. -/
theorem flagBit_packCw (op a f c k : Nat) (hk : k < 8) : flagBit (packCw op a f c) k = f.testBit k := by
  rw [flagBit, packCw_getLsbD, if_neg (by omega), if_pos (by omega), Nat.add_sub_cancel_left]

/-- Each row's `match` has the row's code in `OP` (30_encoding.md R68). -/
theorem ofCode_pattern (p : Op) : Op.ofCode (bits p.pattern 31 24) = some p := by
  cases p <;> decide

/-- Each row's `mask` covers `OP`, so a word that the row selects has the row's code. -/
theorem ofCode_of_selected {w : Word} {p : Op} (h : w &&& p.mask = p.pattern) :
    Op.ofCode (bits w 31 24) = some p := by
  have hm : p.mask &&& 0xFF000000#32 = 0xFF000000#32 := by cases p <;> decide
  have hw : w &&& 0xFF000000#32 = p.pattern &&& 0xFF000000#32 := by
    rw [← h, BitVec.and_assoc, hm]
  have hb : ∀ x : Word, bits x 31 24 = bits (x &&& 0xFF000000#32) 31 24 := by
    intro x
    apply Nat.eq_of_testBit_eq
    intro i
    simp only [bits, Nat.testBit_mod_two_pow, Nat.testBit_shiftRight, BitVec.toNat_and, Nat.testBit_and]
    by_cases hi : i < 31 + 1 - 24
    · have : i < 8 := by omega
      interval_cases i <;> simp [show Nat.testBit 4278190080 24 = true by decide,
        show Nat.testBit 4278190080 25 = true by decide, show Nat.testBit 4278190080 26 = true by decide,
        show Nat.testBit 4278190080 27 = true by decide, show Nat.testBit 4278190080 28 = true by decide,
        show Nat.testBit 4278190080 29 = true by decide, show Nat.testBit 4278190080 30 = true by decide,
        show Nat.testBit 4278190080 31 = true by decide]
    · simp [hi]
  rw [hb w, hw, ← hb, ofCode_pattern]

end Sys2Proof
end

