-- ==== Sys2Proof/Laws/State.lean ====
section
/-! SUPPORT. One lemma for each field of State under each named update, so that no later proof unfolds a record
update. -/

namespace Sys2Proof.Machine

open Sys2Proof


/-! ### `setTimer` -/

@[simp] theorem State.setTimer_cfg (c : Chan) (t : TimerChannel) (s : State) : (s.setTimer c t).cfg = s.cfg := by cases c <;> rfl
@[simp] theorem State.setTimer_gateTmr (c : Chan) (t : TimerChannel) (s : State) : (s.setTimer c t).gateTmr = s.gateTmr := by cases c <;> rfl
@[simp] theorem State.setTimer_gateAdc (c : Chan) (t : TimerChannel) (s : State) : (s.setTimer c t).gateAdc = s.gateAdc := by cases c <;> rfl
@[simp] theorem State.setTimer_gatePin (c : Chan) (t : TimerChannel) (s : State) : (s.setTimer c t).gatePin = s.gatePin := by cases c <;> rfl
@[simp] theorem State.setTimer_cw (c : Chan) (t : TimerChannel) (s : State) : (s.setTimer c t).cw = s.cw := by cases c <;> rfl
@[simp] theorem State.setTimer_arg0 (c : Chan) (t : TimerChannel) (s : State) : (s.setTimer c t).arg0 = s.arg0 := by cases c <;> rfl
@[simp] theorem State.setTimer_arg1 (c : Chan) (t : TimerChannel) (s : State) : (s.setTimer c t).arg1 = s.arg1 := by cases c <;> rfl
@[simp] theorem State.setTimer_rspStatus (c : Chan) (t : TimerChannel) (s : State) : (s.setTimer c t).rspStatus = s.rspStatus := by cases c <;> rfl
@[simp] theorem State.setTimer_rspData (c : Chan) (t : TimerChannel) (s : State) : (s.setTimer c t).rspData = s.rspData := by cases c <;> rfl
@[simp] theorem State.setTimer_adA (c : Chan) (t : TimerChannel) (s : State) : (s.setTimer c t).adA = s.adA := by cases c <;> rfl
@[simp] theorem State.setTimer_adB (c : Chan) (t : TimerChannel) (s : State) : (s.setTimer c t).adB = s.adB := by cases c <;> rfl
@[simp] theorem State.setTimer_adIclk (c : Chan) (t : TimerChannel) (s : State) : (s.setTimer c t).adIclk = s.adIclk := by cases c <;> rfl
@[simp] theorem State.setTimer_adMode (c : Chan) (t : TimerChannel) (s : State) : (s.setTimer c t).adMode = s.adMode := by cases c <;> rfl
@[simp] theorem State.setTimer_adSmplt (c : Chan) (t : TimerChannel) (s : State) : (s.setTimer c t).adSmplt = s.adSmplt := by cases c <;> rfl
@[simp] theorem State.setTimer_adDiv (c : Chan) (t : TimerChannel) (s : State) : (s.setTimer c t).adDiv = s.adDiv := by cases c <;> rfl
@[simp] theorem State.setTimer_adTmo (c : Chan) (t : TimerChannel) (s : State) : (s.setTimer c t).adTmo = s.adTmo := by cases c <;> rfl
@[simp] theorem State.setTimer_cb (c : Chan) (t : TimerChannel) (s : State) : (s.setTimer c t).cb = s.cb := by cases c <;> rfl
@[simp] theorem State.setTimer_tick (c : Chan) (t : TimerChannel) (s : State) : (s.setTimer c t).tick = s.tick := by cases c <;> rfl
@[simp] theorem State.setTimer_duty (c : Chan) (t : TimerChannel) (s : State) : (s.setTimer c t).duty = s.duty := by cases c <;> rfl
@[simp] theorem State.setTimer_outLevel (c : Chan) (t : TimerChannel) (s : State) : (s.setTimer c t).outLevel = s.outLevel := by cases c <;> rfl
@[simp] theorem State.setTimer_pin (c : Chan) (t : TimerChannel) (s : State) : (s.setTimer c t).pin = s.pin := by cases c <;> rfl
@[simp] theorem State.setTimer_lpCode (c : Chan) (t : TimerChannel) (s : State) : (s.setTimer c t).lpCode = s.lpCode := by cases c <;> rfl
@[simp] theorem State.setTimer_lpSlot (c : Chan) (t : TimerChannel) (s : State) : (s.setTimer c t).lpSlot = s.lpSlot := by cases c <;> rfl
@[simp] theorem State.setTimer_lpDiff (c : Chan) (t : TimerChannel) (s : State) : (s.setTimer c t).lpDiff = s.lpDiff := by cases c <;> rfl
@[simp] theorem State.setTimer_stLast (c : Chan) (t : TimerChannel) (s : State) : (s.setTimer c t).stLast = s.stLast := by cases c <;> rfl
@[simp] theorem State.setTimer_stErr (c : Chan) (t : TimerChannel) (s : State) : (s.setTimer c t).stErr = s.stErr := by cases c <;> rfl
@[simp] theorem State.setTimer_bg (c : Chan) (t : TimerChannel) (s : State) : (s.setTimer c t).bg = s.bg := by cases c <;> rfl
@[simp] theorem State.setTimer_isr (c : Chan) (t : TimerChannel) (s : State) : (s.setTimer c t).isr = s.isr := by cases c <;> rfl
@[simp] theorem State.setTimer_commands (c : Chan) (t : TimerChannel) (s : State) : (s.setTimer c t).commands = s.commands := by cases c <;> rfl
@[simp] theorem State.setTimer_turns (c : Chan) (t : TimerChannel) (s : State) : (s.setTimer c t).turns = s.turns := by cases c <;> rfl
@[simp] theorem State.setTimer_draws (c : Chan) (t : TimerChannel) (s : State) : (s.setTimer c t).draws = s.draws := by cases c <;> rfl

/-! ### `setConv` -/

@[simp] theorem State.setConv_cfg (sl : Slot) (v : ConvSlot) (s : State) : (s.setConv sl v).cfg = s.cfg := by cases sl <;> rfl
@[simp] theorem State.setConv_gateTmr (sl : Slot) (v : ConvSlot) (s : State) : (s.setConv sl v).gateTmr = s.gateTmr := by cases sl <;> rfl
@[simp] theorem State.setConv_gateAdc (sl : Slot) (v : ConvSlot) (s : State) : (s.setConv sl v).gateAdc = s.gateAdc := by cases sl <;> rfl
@[simp] theorem State.setConv_gatePin (sl : Slot) (v : ConvSlot) (s : State) : (s.setConv sl v).gatePin = s.gatePin := by cases sl <;> rfl
@[simp] theorem State.setConv_cw (sl : Slot) (v : ConvSlot) (s : State) : (s.setConv sl v).cw = s.cw := by cases sl <;> rfl
@[simp] theorem State.setConv_arg0 (sl : Slot) (v : ConvSlot) (s : State) : (s.setConv sl v).arg0 = s.arg0 := by cases sl <;> rfl
@[simp] theorem State.setConv_arg1 (sl : Slot) (v : ConvSlot) (s : State) : (s.setConv sl v).arg1 = s.arg1 := by cases sl <;> rfl
@[simp] theorem State.setConv_rspStatus (sl : Slot) (v : ConvSlot) (s : State) : (s.setConv sl v).rspStatus = s.rspStatus := by cases sl <;> rfl
@[simp] theorem State.setConv_rspData (sl : Slot) (v : ConvSlot) (s : State) : (s.setConv sl v).rspData = s.rspData := by cases sl <;> rfl
@[simp] theorem State.setConv_tmr0 (sl : Slot) (v : ConvSlot) (s : State) : (s.setConv sl v).tmr0 = s.tmr0 := by cases sl <;> rfl
@[simp] theorem State.setConv_tmr1 (sl : Slot) (v : ConvSlot) (s : State) : (s.setConv sl v).tmr1 = s.tmr1 := by cases sl <;> rfl
@[simp] theorem State.setConv_adIclk (sl : Slot) (v : ConvSlot) (s : State) : (s.setConv sl v).adIclk = s.adIclk := by cases sl <;> rfl
@[simp] theorem State.setConv_adMode (sl : Slot) (v : ConvSlot) (s : State) : (s.setConv sl v).adMode = s.adMode := by cases sl <;> rfl
@[simp] theorem State.setConv_adSmplt (sl : Slot) (v : ConvSlot) (s : State) : (s.setConv sl v).adSmplt = s.adSmplt := by cases sl <;> rfl
@[simp] theorem State.setConv_adDiv (sl : Slot) (v : ConvSlot) (s : State) : (s.setConv sl v).adDiv = s.adDiv := by cases sl <;> rfl
@[simp] theorem State.setConv_adTmo (sl : Slot) (v : ConvSlot) (s : State) : (s.setConv sl v).adTmo = s.adTmo := by cases sl <;> rfl
@[simp] theorem State.setConv_cb (sl : Slot) (v : ConvSlot) (s : State) : (s.setConv sl v).cb = s.cb := by cases sl <;> rfl
@[simp] theorem State.setConv_tick (sl : Slot) (v : ConvSlot) (s : State) : (s.setConv sl v).tick = s.tick := by cases sl <;> rfl
@[simp] theorem State.setConv_duty (sl : Slot) (v : ConvSlot) (s : State) : (s.setConv sl v).duty = s.duty := by cases sl <;> rfl
@[simp] theorem State.setConv_outLevel (sl : Slot) (v : ConvSlot) (s : State) : (s.setConv sl v).outLevel = s.outLevel := by cases sl <;> rfl
@[simp] theorem State.setConv_pin (sl : Slot) (v : ConvSlot) (s : State) : (s.setConv sl v).pin = s.pin := by cases sl <;> rfl
@[simp] theorem State.setConv_lpCode (sl : Slot) (v : ConvSlot) (s : State) : (s.setConv sl v).lpCode = s.lpCode := by cases sl <;> rfl
@[simp] theorem State.setConv_lpSlot (sl : Slot) (v : ConvSlot) (s : State) : (s.setConv sl v).lpSlot = s.lpSlot := by cases sl <;> rfl
@[simp] theorem State.setConv_lpDiff (sl : Slot) (v : ConvSlot) (s : State) : (s.setConv sl v).lpDiff = s.lpDiff := by cases sl <;> rfl
@[simp] theorem State.setConv_stLast (sl : Slot) (v : ConvSlot) (s : State) : (s.setConv sl v).stLast = s.stLast := by cases sl <;> rfl
@[simp] theorem State.setConv_stErr (sl : Slot) (v : ConvSlot) (s : State) : (s.setConv sl v).stErr = s.stErr := by cases sl <;> rfl
@[simp] theorem State.setConv_bg (sl : Slot) (v : ConvSlot) (s : State) : (s.setConv sl v).bg = s.bg := by cases sl <;> rfl
@[simp] theorem State.setConv_isr (sl : Slot) (v : ConvSlot) (s : State) : (s.setConv sl v).isr = s.isr := by cases sl <;> rfl
@[simp] theorem State.setConv_commands (sl : Slot) (v : ConvSlot) (s : State) : (s.setConv sl v).commands = s.commands := by cases sl <;> rfl
@[simp] theorem State.setConv_turns (sl : Slot) (v : ConvSlot) (s : State) : (s.setConv sl v).turns = s.turns := by cases sl <;> rfl
@[simp] theorem State.setConv_draws (sl : Slot) (v : ConvSlot) (s : State) : (s.setConv sl v).draws = s.draws := by cases sl <;> rfl

/-! ### `setGate` -/

@[simp] theorem State.setGate_cfg (g : Gate) (v : Bool) (s : State) : (s.setGate g v).cfg = s.cfg := by cases g <;> rfl
@[simp] theorem State.setGate_cw (g : Gate) (v : Bool) (s : State) : (s.setGate g v).cw = s.cw := by cases g <;> rfl
@[simp] theorem State.setGate_arg0 (g : Gate) (v : Bool) (s : State) : (s.setGate g v).arg0 = s.arg0 := by cases g <;> rfl
@[simp] theorem State.setGate_arg1 (g : Gate) (v : Bool) (s : State) : (s.setGate g v).arg1 = s.arg1 := by cases g <;> rfl
@[simp] theorem State.setGate_rspStatus (g : Gate) (v : Bool) (s : State) : (s.setGate g v).rspStatus = s.rspStatus := by cases g <;> rfl
@[simp] theorem State.setGate_rspData (g : Gate) (v : Bool) (s : State) : (s.setGate g v).rspData = s.rspData := by cases g <;> rfl
@[simp] theorem State.setGate_tmr0 (g : Gate) (v : Bool) (s : State) : (s.setGate g v).tmr0 = s.tmr0 := by cases g <;> rfl
@[simp] theorem State.setGate_tmr1 (g : Gate) (v : Bool) (s : State) : (s.setGate g v).tmr1 = s.tmr1 := by cases g <;> rfl
@[simp] theorem State.setGate_adA (g : Gate) (v : Bool) (s : State) : (s.setGate g v).adA = s.adA := by cases g <;> rfl
@[simp] theorem State.setGate_adB (g : Gate) (v : Bool) (s : State) : (s.setGate g v).adB = s.adB := by cases g <;> rfl
@[simp] theorem State.setGate_adIclk (g : Gate) (v : Bool) (s : State) : (s.setGate g v).adIclk = s.adIclk := by cases g <;> rfl
@[simp] theorem State.setGate_adMode (g : Gate) (v : Bool) (s : State) : (s.setGate g v).adMode = s.adMode := by cases g <;> rfl
@[simp] theorem State.setGate_adSmplt (g : Gate) (v : Bool) (s : State) : (s.setGate g v).adSmplt = s.adSmplt := by cases g <;> rfl
@[simp] theorem State.setGate_adDiv (g : Gate) (v : Bool) (s : State) : (s.setGate g v).adDiv = s.adDiv := by cases g <;> rfl
@[simp] theorem State.setGate_adTmo (g : Gate) (v : Bool) (s : State) : (s.setGate g v).adTmo = s.adTmo := by cases g <;> rfl
@[simp] theorem State.setGate_cb (g : Gate) (v : Bool) (s : State) : (s.setGate g v).cb = s.cb := by cases g <;> rfl
@[simp] theorem State.setGate_tick (g : Gate) (v : Bool) (s : State) : (s.setGate g v).tick = s.tick := by cases g <;> rfl
@[simp] theorem State.setGate_duty (g : Gate) (v : Bool) (s : State) : (s.setGate g v).duty = s.duty := by cases g <;> rfl
@[simp] theorem State.setGate_outLevel (g : Gate) (v : Bool) (s : State) : (s.setGate g v).outLevel = s.outLevel := by cases g <;> rfl
@[simp] theorem State.setGate_pin (g : Gate) (v : Bool) (s : State) : (s.setGate g v).pin = s.pin := by cases g <;> rfl
@[simp] theorem State.setGate_lpCode (g : Gate) (v : Bool) (s : State) : (s.setGate g v).lpCode = s.lpCode := by cases g <;> rfl
@[simp] theorem State.setGate_lpSlot (g : Gate) (v : Bool) (s : State) : (s.setGate g v).lpSlot = s.lpSlot := by cases g <;> rfl
@[simp] theorem State.setGate_lpDiff (g : Gate) (v : Bool) (s : State) : (s.setGate g v).lpDiff = s.lpDiff := by cases g <;> rfl
@[simp] theorem State.setGate_stLast (g : Gate) (v : Bool) (s : State) : (s.setGate g v).stLast = s.stLast := by cases g <;> rfl
@[simp] theorem State.setGate_stErr (g : Gate) (v : Bool) (s : State) : (s.setGate g v).stErr = s.stErr := by cases g <;> rfl
@[simp] theorem State.setGate_bg (g : Gate) (v : Bool) (s : State) : (s.setGate g v).bg = s.bg := by cases g <;> rfl
@[simp] theorem State.setGate_isr (g : Gate) (v : Bool) (s : State) : (s.setGate g v).isr = s.isr := by cases g <;> rfl
@[simp] theorem State.setGate_commands (g : Gate) (v : Bool) (s : State) : (s.setGate g v).commands = s.commands := by cases g <;> rfl
@[simp] theorem State.setGate_turns (g : Gate) (v : Bool) (s : State) : (s.setGate g v).turns = s.turns := by cases g <;> rfl
@[simp] theorem State.setGate_draws (g : Gate) (v : Bool) (s : State) : (s.setGate g v).draws = s.draws := by cases g <;> rfl

/-! ### `note` -/

@[simp] theorem note_cfg (st : Status) (s : State) : (note st s).cfg = s.cfg := rfl
@[simp] theorem note_gateTmr (st : Status) (s : State) : (note st s).gateTmr = s.gateTmr := rfl
@[simp] theorem note_gateAdc (st : Status) (s : State) : (note st s).gateAdc = s.gateAdc := rfl
@[simp] theorem note_gatePin (st : Status) (s : State) : (note st s).gatePin = s.gatePin := rfl
@[simp] theorem note_cw (st : Status) (s : State) : (note st s).cw = s.cw := rfl
@[simp] theorem note_arg0 (st : Status) (s : State) : (note st s).arg0 = s.arg0 := rfl
@[simp] theorem note_arg1 (st : Status) (s : State) : (note st s).arg1 = s.arg1 := rfl
@[simp] theorem note_rspStatus (st : Status) (s : State) : (note st s).rspStatus = s.rspStatus := rfl
@[simp] theorem note_rspData (st : Status) (s : State) : (note st s).rspData = s.rspData := rfl
@[simp] theorem note_tmr0 (st : Status) (s : State) : (note st s).tmr0 = s.tmr0 := rfl
@[simp] theorem note_tmr1 (st : Status) (s : State) : (note st s).tmr1 = s.tmr1 := rfl
@[simp] theorem note_adA (st : Status) (s : State) : (note st s).adA = s.adA := rfl
@[simp] theorem note_adB (st : Status) (s : State) : (note st s).adB = s.adB := rfl
@[simp] theorem note_adIclk (st : Status) (s : State) : (note st s).adIclk = s.adIclk := rfl
@[simp] theorem note_adMode (st : Status) (s : State) : (note st s).adMode = s.adMode := rfl
@[simp] theorem note_adSmplt (st : Status) (s : State) : (note st s).adSmplt = s.adSmplt := rfl
@[simp] theorem note_adDiv (st : Status) (s : State) : (note st s).adDiv = s.adDiv := rfl
@[simp] theorem note_adTmo (st : Status) (s : State) : (note st s).adTmo = s.adTmo := rfl
@[simp] theorem note_cb (st : Status) (s : State) : (note st s).cb = s.cb := rfl
@[simp] theorem note_tick (st : Status) (s : State) : (note st s).tick = s.tick := rfl
@[simp] theorem note_duty (st : Status) (s : State) : (note st s).duty = s.duty := rfl
@[simp] theorem note_outLevel (st : Status) (s : State) : (note st s).outLevel = s.outLevel := rfl
@[simp] theorem note_pin (st : Status) (s : State) : (note st s).pin = s.pin := rfl
@[simp] theorem note_lpCode (st : Status) (s : State) : (note st s).lpCode = s.lpCode := rfl
@[simp] theorem note_lpSlot (st : Status) (s : State) : (note st s).lpSlot = s.lpSlot := rfl
@[simp] theorem note_lpDiff (st : Status) (s : State) : (note st s).lpDiff = s.lpDiff := rfl
@[simp] theorem note_stLast (st : Status) (s : State) : (note st s).stLast = s.stLast := rfl
@[simp] theorem note_bg (st : Status) (s : State) : (note st s).bg = s.bg := rfl
@[simp] theorem note_isr (st : Status) (s : State) : (note st s).isr = s.isr := rfl
@[simp] theorem note_commands (st : Status) (s : State) : (note st s).commands = s.commands := rfl
@[simp] theorem note_turns (st : Status) (s : State) : (note st s).turns = s.turns := rfl
@[simp] theorem note_draws (st : Status) (s : State) : (note st s).draws = s.draws := rfl
@[simp] theorem note_stErr (st : Status) (s : State) : (note st s).stErr = s.stErr ||| stickyBit st := rfl

/-! ### `respond` -/

@[simp] theorem respond_cfg (st : Status) (d : Word) (s : State) : (respond st d s).cfg = s.cfg := rfl
@[simp] theorem respond_gateTmr (st : Status) (d : Word) (s : State) : (respond st d s).gateTmr = s.gateTmr := rfl
@[simp] theorem respond_gateAdc (st : Status) (d : Word) (s : State) : (respond st d s).gateAdc = s.gateAdc := rfl
@[simp] theorem respond_gatePin (st : Status) (d : Word) (s : State) : (respond st d s).gatePin = s.gatePin := rfl
@[simp] theorem respond_cw (st : Status) (d : Word) (s : State) : (respond st d s).cw = s.cw := rfl
@[simp] theorem respond_arg0 (st : Status) (d : Word) (s : State) : (respond st d s).arg0 = s.arg0 := rfl
@[simp] theorem respond_arg1 (st : Status) (d : Word) (s : State) : (respond st d s).arg1 = s.arg1 := rfl
@[simp] theorem respond_rspStatus (st : Status) (d : Word) (s : State) : (respond st d s).rspStatus = BitVec.ofNat 4 (statusCode st) := rfl
@[simp] theorem respond_rspData (st : Status) (d : Word) (s : State) : (respond st d s).rspData = d := rfl
@[simp] theorem respond_tmr0 (st : Status) (d : Word) (s : State) : (respond st d s).tmr0 = s.tmr0 := rfl
@[simp] theorem respond_tmr1 (st : Status) (d : Word) (s : State) : (respond st d s).tmr1 = s.tmr1 := rfl
@[simp] theorem respond_adA (st : Status) (d : Word) (s : State) : (respond st d s).adA = s.adA := rfl
@[simp] theorem respond_adB (st : Status) (d : Word) (s : State) : (respond st d s).adB = s.adB := rfl
@[simp] theorem respond_adIclk (st : Status) (d : Word) (s : State) : (respond st d s).adIclk = s.adIclk := rfl
@[simp] theorem respond_adMode (st : Status) (d : Word) (s : State) : (respond st d s).adMode = s.adMode := rfl
@[simp] theorem respond_adSmplt (st : Status) (d : Word) (s : State) : (respond st d s).adSmplt = s.adSmplt := rfl
@[simp] theorem respond_adDiv (st : Status) (d : Word) (s : State) : (respond st d s).adDiv = s.adDiv := rfl
@[simp] theorem respond_adTmo (st : Status) (d : Word) (s : State) : (respond st d s).adTmo = s.adTmo := rfl
@[simp] theorem respond_cb (st : Status) (d : Word) (s : State) : (respond st d s).cb = s.cb := rfl
@[simp] theorem respond_tick (st : Status) (d : Word) (s : State) : (respond st d s).tick = s.tick := rfl
@[simp] theorem respond_duty (st : Status) (d : Word) (s : State) : (respond st d s).duty = s.duty := rfl
@[simp] theorem respond_outLevel (st : Status) (d : Word) (s : State) : (respond st d s).outLevel = s.outLevel := rfl
@[simp] theorem respond_pin (st : Status) (d : Word) (s : State) : (respond st d s).pin = s.pin := rfl
@[simp] theorem respond_lpCode (st : Status) (d : Word) (s : State) : (respond st d s).lpCode = s.lpCode := rfl
@[simp] theorem respond_lpSlot (st : Status) (d : Word) (s : State) : (respond st d s).lpSlot = s.lpSlot := rfl
@[simp] theorem respond_lpDiff (st : Status) (d : Word) (s : State) : (respond st d s).lpDiff = s.lpDiff := rfl
@[simp] theorem respond_stLast (st : Status) (d : Word) (s : State) : (respond st d s).stLast = BitVec.ofNat 4 (statusCode st) := rfl
@[simp] theorem respond_stErr (st : Status) (d : Word) (s : State) : (respond st d s).stErr = s.stErr ||| stickyBit st := rfl
@[simp] theorem respond_bg (st : Status) (d : Word) (s : State) : (respond st d s).bg = .idle := rfl
@[simp] theorem respond_isr (st : Status) (d : Word) (s : State) : (respond st d s).isr = s.isr := rfl
@[simp] theorem respond_commands (st : Status) (d : Word) (s : State) : (respond st d s).commands = s.commands := rfl
@[simp] theorem respond_turns (st : Status) (d : Word) (s : State) : (respond st d s).turns = s.turns := rfl
@[simp] theorem respond_draws (st : Status) (d : Word) (s : State) : (respond st d s).draws = s.draws := rfl

/-! ### `advance` -/

@[simp] theorem advance_cfg (k : Micro) (s : State) : (advance k s).cfg = s.cfg := rfl
@[simp] theorem advance_gateTmr (k : Micro) (s : State) : (advance k s).gateTmr = s.gateTmr := rfl
@[simp] theorem advance_gateAdc (k : Micro) (s : State) : (advance k s).gateAdc = s.gateAdc := rfl
@[simp] theorem advance_gatePin (k : Micro) (s : State) : (advance k s).gatePin = s.gatePin := rfl
@[simp] theorem advance_cw (k : Micro) (s : State) : (advance k s).cw = s.cw := rfl
@[simp] theorem advance_arg0 (k : Micro) (s : State) : (advance k s).arg0 = s.arg0 := rfl
@[simp] theorem advance_arg1 (k : Micro) (s : State) : (advance k s).arg1 = s.arg1 := rfl
@[simp] theorem advance_rspStatus (k : Micro) (s : State) : (advance k s).rspStatus = s.rspStatus := rfl
@[simp] theorem advance_rspData (k : Micro) (s : State) : (advance k s).rspData = s.rspData := rfl
@[simp] theorem advance_tmr0 (k : Micro) (s : State) : (advance k s).tmr0 = s.tmr0 := rfl
@[simp] theorem advance_tmr1 (k : Micro) (s : State) : (advance k s).tmr1 = s.tmr1 := rfl
@[simp] theorem advance_adA (k : Micro) (s : State) : (advance k s).adA = s.adA := rfl
@[simp] theorem advance_adB (k : Micro) (s : State) : (advance k s).adB = s.adB := rfl
@[simp] theorem advance_adIclk (k : Micro) (s : State) : (advance k s).adIclk = s.adIclk := rfl
@[simp] theorem advance_adMode (k : Micro) (s : State) : (advance k s).adMode = s.adMode := rfl
@[simp] theorem advance_adSmplt (k : Micro) (s : State) : (advance k s).adSmplt = s.adSmplt := rfl
@[simp] theorem advance_adDiv (k : Micro) (s : State) : (advance k s).adDiv = s.adDiv := rfl
@[simp] theorem advance_adTmo (k : Micro) (s : State) : (advance k s).adTmo = s.adTmo := rfl
@[simp] theorem advance_cb (k : Micro) (s : State) : (advance k s).cb = s.cb := rfl
@[simp] theorem advance_tick (k : Micro) (s : State) : (advance k s).tick = s.tick := rfl
@[simp] theorem advance_duty (k : Micro) (s : State) : (advance k s).duty = s.duty := rfl
@[simp] theorem advance_outLevel (k : Micro) (s : State) : (advance k s).outLevel = s.outLevel := rfl
@[simp] theorem advance_pin (k : Micro) (s : State) : (advance k s).pin = s.pin := rfl
@[simp] theorem advance_lpCode (k : Micro) (s : State) : (advance k s).lpCode = s.lpCode := rfl
@[simp] theorem advance_lpSlot (k : Micro) (s : State) : (advance k s).lpSlot = s.lpSlot := rfl
@[simp] theorem advance_lpDiff (k : Micro) (s : State) : (advance k s).lpDiff = s.lpDiff := rfl
@[simp] theorem advance_stLast (k : Micro) (s : State) : (advance k s).stLast = s.stLast := rfl
@[simp] theorem advance_stErr (k : Micro) (s : State) : (advance k s).stErr = s.stErr := rfl
@[simp] theorem advance_bg (k : Micro) (s : State) : (advance k s).bg = .exec k := rfl
@[simp] theorem advance_isr (k : Micro) (s : State) : (advance k s).isr = s.isr := rfl
@[simp] theorem advance_commands (k : Micro) (s : State) : (advance k s).commands = s.commands := rfl
@[simp] theorem advance_turns (k : Micro) (s : State) : (advance k s).turns = s.turns := rfl
@[simp] theorem advance_draws (k : Micro) (s : State) : (advance k s).draws = s.draws := rfl

/-! ### The channel and slot accessors -/

@[simp] theorem timer_setTimer (c d : Chan) (t : TimerChannel) (s : State) :
    (s.setTimer c t).timer d = if d = c then t else s.timer d := by
  cases c <;> cases d <;> rfl

@[simp] theorem conv_setConv (sl sm : Slot) (v : ConvSlot) (s : State) :
    (s.setConv sl v).conv sm = if sm = sl then v else s.conv sm := by
  cases sl <;> cases sm <;> rfl

@[simp] theorem timer_setConv (c : Chan) (sl : Slot) (v : ConvSlot) (s : State) :
    (s.setConv sl v).timer c = s.timer c := by
  cases c <;> simp [State.timer]

@[simp] theorem conv_setTimer (c : Chan) (sl : Slot) (t : TimerChannel) (s : State) :
    (s.setTimer c t).conv sl = s.conv sl := by
  cases sl <;> simp [State.conv]

@[simp] theorem setTimer_timer (c : Chan) (s : State) : s.setTimer c (s.timer c) = s := by
  cases c <;> rfl

@[simp] theorem setConv_conv (sl : Slot) (s : State) : s.setConv sl (s.conv sl) = s := by
  cases sl <;> rfl

@[simp] theorem setTimer_setTimer (c : Chan) (t u : TimerChannel) (s : State) :
    (s.setTimer c t).setTimer c u = s.setTimer c u := by
  cases c <;> rfl

@[simp] theorem setConv_setConv (sl : Slot) (v w : ConvSlot) (s : State) :
    (s.setConv sl v).setConv sl w = s.setConv sl w := by
  cases sl <;> rfl

@[simp] theorem timer_note (c : Chan) (st : Status) (s : State) : (note st s).timer c = s.timer c := by
  cases c <;> rfl

@[simp] theorem conv_note (sl : Slot) (st : Status) (s : State) : (note st s).conv sl = s.conv sl := by
  cases sl <;> rfl

@[simp] theorem timer_respond (c : Chan) (st : Status) (d : Word) (s : State) :
    (respond st d s).timer c = s.timer c := by
  cases c <;> rfl

@[simp] theorem conv_respond (sl : Slot) (st : Status) (d : Word) (s : State) :
    (respond st d s).conv sl = s.conv sl := by
  cases sl <;> rfl

@[simp] theorem timer_advance (c : Chan) (k : Micro) (s : State) : (advance k s).timer c = s.timer c := by
  cases c <;> rfl

@[simp] theorem conv_advance (sl : Slot) (k : Micro) (s : State) : (advance k s).conv sl = s.conv sl := by
  cases sl <;> rfl

@[simp] theorem gate_note (g : Gate) (st : Status) (s : State) : (note st s).gate g = s.gate g := by
  cases g <;> rfl

@[simp] theorem gate_respond (g : Gate) (st : Status) (d : Word) (s : State) :
    (respond st d s).gate g = s.gate g := by
  cases g <;> rfl

@[simp] theorem gate_advance (g : Gate) (k : Micro) (s : State) : (advance k s).gate g = s.gate g := by
  cases g <;> rfl

@[simp] theorem gate_setTimer (g : Gate) (c : Chan) (t : TimerChannel) (s : State) :
    (s.setTimer c t).gate g = s.gate g := by
  cases g <;> simp [State.gate]

@[simp] theorem gate_setConv (g : Gate) (sl : Slot) (v : ConvSlot) (s : State) :
    (s.setConv sl v).gate g = s.gate g := by
  cases g <;> simp [State.gate]

end Sys2Proof.Machine
end

