-- ==== Sys2Proof/Laws/Ops.lean ====
section
/-! SUPPORT. What each shared register operation does, said once: field storage, `RegRead`, `RegWrite`, `FieldRead`,
`FieldWrite`, the gate test, the start of a conversion. Provers cite these instead of unfolding the operations. -/

namespace Sys2Proof.Machine

open Sys2Proof

/-! ### Field storage -/

/-- A stored value has no bit above its field's width. -/
theorem getField_and_mask (f : Field) (s : State) :
    getField f s &&& maskOf (fieldWidth f) = getField f s := by
  cases f <;>
    simp only [getField, fieldWidth, and_maskOf_full, setWidth_and_mask, bitWord_and_mask]

/-- Writing a field and reading it gives the bits of the value that fit. -/
theorem getField_putField_self (f : Field) (v : Word) (s : State) :
    getField f (putField f v s) = v &&& maskOf (fieldWidth f) := by
  cases f <;>
    simp only [getField, putField, fieldWidth, and_maskOf_full, bitWord_getLsbD, setWidth_setWidth_mask,
      timer_setTimer, conv_setConv, if_true]

/-- Writing a field leaves every other field alone. -/
theorem getField_putField_of_ne {f g : Field} (h : g ≠ f) (v : Word) (s : State) :
    getField g (putField f v s) = getField g s := by
  cases f with
  | tLoad c | tEn c | tIe c | tChn c | tIf c =>
    cases g <;> simp_all [getField, putField] <;> split <;> simp_all
  | adCh sl | adDiff sl | adIen sl | adCoco sl | adR sl =>
    cases g <;> simp_all [getField, putField] <;> split <;> simp_all
  | _ => cases g <;> simp_all [getField, putField, State.timer, State.conv]

@[simp] theorem putField_getField (f : Field) (s : State) : putField f (getField f s) s = s := by
  cases f with
  | tLoad c => cases c <;> rfl
  | tEn c => cases c <;> simp [putField, getField, State.setTimer, State.timer]
  | tIe c => cases c <;> simp [putField, getField, State.setTimer, State.timer]
  | tChn c => cases c <;> simp [putField, getField, State.setTimer, State.timer]
  | tIf c => cases c <;> simp [putField, getField, State.setTimer, State.timer]
  | adCh sl => cases sl <;> simp [putField, getField, State.setConv, State.conv]
  | adDiff sl => cases sl <;> simp [putField, getField, State.setConv, State.conv]
  | adIen sl => cases sl <;> simp [putField, getField, State.setConv, State.conv]
  | adCoco sl => cases sl <;> simp [putField, getField, State.setConv, State.conv]
  | adR sl => cases sl <;> simp [putField, getField, State.setConv, State.conv]
  | _ => simp [putField, getField]

/-- Only the bits that fit are stored. -/
theorem putField_and_mask (f : Field) (v : Word) (s : State) :
    putField f (v &&& maskOf (fieldWidth f)) s = putField f v s := by
  cases f <;>
    simp only [putField, fieldWidth, and_maskOf_full, mask_setWidth, mask_getLsbD_zero]

/-! ### The field table -/

theorem field_fits (f : Field) : fieldOff f + fieldWidth f ≤ 32 := by
  cases f <;> simp [fieldOff, fieldWidth]

/-- Two fields of one register share no bit (10_state.md R42). -/
theorem fields_disjoint {f g : Field} (hr : fieldReg f = fieldReg g) (h : f ≠ g) :
    fieldOff f + fieldWidth f ≤ fieldOff g ∨ fieldOff g + fieldWidth g ≤ fieldOff f := by
  cases f <;> cases g <;> simp_all [fieldReg, fieldOff, fieldWidth]

theorem mem_regFields (f : Field) : f ∈ regFields (fieldReg f) := by
  cases f <;> simp [fieldReg, regFields]

theorem fieldReg_of_mem {f : Field} {r : Reg} (h : f ∈ regFields r) : fieldReg f = r := by
  cases r <;> simp [regFields] at h <;> (try rcases h with h | h | h | h) <;> (try rcases h with h | h) <;>
    simp_all [fieldReg]

/-! ### Slices and whole registers -/

theorem slice_or (f : Field) (a b : Word) : slice f (a ||| b) = slice f a ||| slice f b := by
  unfold slice
  rw [BitVec.ushiftRight_or_distrib]
  apply BitVec.eq_of_getLsbD_eq
  intro i hi
  simp only [BitVec.getLsbD_and, BitVec.getLsbD_or, Bool.and_or_distrib_right]

theorem slice_zero (f : Field) : slice f 0#32 = 0#32 := by
  simp [slice]

theorem slice_own (f : Field) (s : State) : slice f (getField f s <<< fieldOff f) = getField f s :=
  shifted_own_bits _ _ _ (getField_and_mask f s) (field_fits f)

theorem slice_other {f g : Field} (hr : fieldReg g = fieldReg f) (h : g ≠ f) (s : State) :
    slice f (getField g s <<< fieldOff g) = 0#32 :=
  shifted_other_bits _ _ _ _ _ (getField_and_mask g s) (fields_disjoint hr h)

theorem slice_foldl (f : Field) (s : State) (l : List Field) (w : Word)
    (hl : ∀ g ∈ l, fieldReg g = fieldReg f) :
    slice f (l.foldl (fun w f => w ||| (getField f s <<< fieldOff f)) w) =
      slice f w ||| (if f ∈ l then getField f s else 0#32) := by
  induction l generalizing w with
  | nil => simp
  | cons g l ih =>
    rw [List.foldl_cons, ih _ (fun x hx => hl x (List.mem_cons_of_mem _ hx)), slice_or, BitVec.or_assoc]
    congr 1
    by_cases h : g = f
    · subst h
      rw [slice_own]
      by_cases hm : g ∈ l <;> simp [hm]
    · rw [slice_other (hl g List.mem_cons_self) h]
      have : f ≠ g := fun e => h e.symm
      simp [this]

/-- A field read from its register's image is the stored value (10_state.md R40). -/
theorem slice_regRead (f : Field) (s : State) : slice f (regRead (fieldReg f) s) = getField f s := by
  unfold regRead
  rw [slice_foldl f s _ _ (fun g hg => fieldReg_of_mem hg), slice_zero]
  simp [mem_regFields]

/-- `FieldRead(f)` is the stored value. -/
@[simp] theorem fieldRead_eq (f : Field) (s : State) : fieldRead f s = getField f s := slice_regRead f s

theorem slice_mergeField_self (f : Field) (v old : Word) :
    slice f (mergeField f v old) = v &&& maskOf (fieldWidth f) :=
  merged_own_bits _ _ _ _ (field_fits f)

theorem slice_mergeField_of_ne {f g : Field} (hr : fieldReg f = fieldReg g) (h : f ≠ g) (v old : Word) :
    slice g (mergeField f v old) = slice g old :=
  merged_other_bits _ _ _ _ _ _ (fields_disjoint hr h)

/-- A register write whose word gives every field but `f` its old value writes `f` alone. -/
theorem foldl_writeSlice (f : Field) (v w : Word) (s : State) (hrw : fieldAcc f = .rw)
    (hown : putField f (slice f w) = putField f v) (l : List Field)
    (hreg : ∀ g ∈ l, fieldReg g = fieldReg f) (hnd : l.Nodup)
    (hother : ∀ g ∈ l, g ≠ f → slice g w = getField g s ∧ fieldAcc g ≠ .w1c) (t : State)
    (ht : ∀ g ∈ l, g ≠ f → getField g t = getField g s) :
    l.foldl (fun t f => writeSlice f (slice f w) t) t = if f ∈ l then putField f v t else t := by
  induction l generalizing t with
  | nil => simp
  | cons g l ih =>
    have hreg' : ∀ x ∈ l, fieldReg x = fieldReg f := fun x hx => hreg x (List.mem_cons_of_mem _ hx)
    have hother' : ∀ x ∈ l, x ≠ f → slice x w = getField x s ∧ fieldAcc x ≠ .w1c :=
      fun x hx => hother x (List.mem_cons_of_mem _ hx)
    have hnd' := (List.nodup_cons.mp hnd)
    rw [List.foldl_cons]
    by_cases h : g = f
    · subst h
      have e1 : writeSlice g (slice g w) t = putField g v t := by
        unfold writeSlice
        rw [hrw]
        exact congrFun hown t
      rw [e1, ih hreg' hnd'.2 hother' _ (fun x hx hxg => by
        rw [getField_putField_of_ne hxg]
        exact ht x (List.mem_cons_of_mem _ hx) hxg)]
      simp [hnd'.1]
    · have hg := hother g List.mem_cons_self h
      have e1 : writeSlice g (slice g w) t = t := by
        unfold writeSlice
        rw [hg.1, ← ht g List.mem_cons_self h]
        cases hacc : fieldAcc g with
        | rw => simp
        | ro => rfl
        | w1c => exact absurd hacc hg.2
      rw [e1, ih hreg' hnd'.2 hother' _ (fun x hx hxg => ht x (List.mem_cons_of_mem _ hx) hxg)]
      have : f ≠ g := fun e => h e.symm
      simp [this]

theorem regFields_nodup (r : Reg) : (regFields r).Nodup := by
  cases r <;> simp [regFields]

/-- A field that shares its register with a read-write field is never write-1-to-clear (70_reset_and_hazards.md R172). -/
theorem acc_of_shared {f g : Field} (hr : fieldReg g = fieldReg f) (hf : fieldAcc f = .rw) :
    fieldAcc g ≠ .w1c := by
  cases f <;> cases g <;> simp_all [fieldReg, fieldAcc]

/-- `FieldWrite(f, v)` of a read-write field writes that field and nothing else (00_scope.md R11, 40_ral.md R84). -/
theorem fieldWrite_eq {f : Field} (hf : fieldAcc f = .rw) (v : Word) (s : State) :
    fieldWrite f v s = putField f v s := by
  unfold fieldWrite regWrite
  rw [foldl_writeSlice f v _ s hf]
  · simp [mem_regFields]
  · funext t
    rw [slice_mergeField_self, putField_and_mask]
  · exact fun g hg => fieldReg_of_mem hg
  · exact regFields_nodup _
  · intro g hg hne
    have hr := fieldReg_of_mem hg
    refine ⟨?_, acc_of_shared hr hf⟩
    rw [slice_mergeField_of_ne hr.symm (fun e => hne e.symm), ← hr, slice_regRead]
  · exact fun _ _ _ => rfl

/-- `RegWrite` of a load register stores the word whole (41_timer_scheduler.md R90). -/
@[simp] theorem regWrite_tLoad (c : Chan) (w : Word) (s : State) :
    regWrite (.tLoad c) w s = s.setTimer c { s.timer c with load := w } := by
  simp [regWrite, regFields, writeSlice, fieldAcc, putField, slice, fieldOff, fieldWidth, and_maskOf_full]

/-- Writing 1 to a flag register clears the flag (20_memory.md R53 a). -/
@[simp] theorem regWrite_tFlag_one (c : Chan) (s : State) :
    regWrite (.tFlag c) 1#32 s = s.setTimer c { s.timer c with flag := false } := by
  have h : (getField (.tIf c) s &&& ~~~slice (.tIf c) 1#32).getLsbD 0 = false := by
    simp [slice, fieldOff, fieldWidth, maskOf]
  simp only [regWrite, regFields, List.foldl_cons, List.foldl_nil, writeSlice, fieldAcc, putField, h]

/-! ### `FieldWrite` of each read-write field that an operation writes -/

@[simp] theorem fieldWrite_tChn (c : Chan) (b : Bool) (s : State) :
    fieldWrite (.tChn c) (bitWord b) s = s.setTimer c { s.timer c with chn := b } := by
  rw [fieldWrite_eq rfl]; simp [putField]

@[simp] theorem fieldWrite_tIe (c : Chan) (b : Bool) (s : State) :
    fieldWrite (.tIe c) (bitWord b) s = s.setTimer c { s.timer c with ie := b } := by
  rw [fieldWrite_eq rfl]; simp [putField]

@[simp] theorem fieldWrite_tEn (c : Chan) (b : Bool) (s : State) :
    fieldWrite (.tEn c) (bitWord b) s = s.setTimer c { s.timer c with en := b } := by
  rw [fieldWrite_eq rfl]; simp [putField]

@[simp] theorem fieldWrite_adDiff (sl : Slot) (b : Bool) (s : State) :
    fieldWrite (.adDiff sl) (bitWord b) s = s.setConv sl { s.conv sl with diff := b } := by
  rw [fieldWrite_eq rfl]; simp [putField]

@[simp] theorem fieldWrite_adIen (sl : Slot) (b : Bool) (s : State) :
    fieldWrite (.adIen sl) (bitWord b) s = s.setConv sl { s.conv sl with ien := b } := by
  rw [fieldWrite_eq rfl]; simp [putField]

@[simp] theorem fieldWrite_adCh (sl : Slot) (v : Word) (s : State) :
    fieldWrite (.adCh sl) v s = s.setConv sl { s.conv sl with ch := v.setWidth 5 } := by
  rw [fieldWrite_eq rfl]; rfl

@[simp] theorem fieldWrite_adIclk (v : BitVec 2) (s : State) :
    fieldWrite .adIclk (v.setWidth 32) s = { s with adIclk := v } := by
  rw [fieldWrite_eq rfl]; simp [putField]

@[simp] theorem fieldWrite_adMode (v : BitVec 2) (s : State) :
    fieldWrite .adMode (v.setWidth 32) s = { s with adMode := v } := by
  rw [fieldWrite_eq rfl]; simp [putField]

@[simp] theorem fieldWrite_adDiv (v : BitVec 2) (s : State) :
    fieldWrite .adDiv (v.setWidth 32) s = { s with adDiv := v } := by
  rw [fieldWrite_eq rfl]; simp [putField]

@[simp] theorem fieldWrite_adSmplt (b : Bool) (s : State) :
    fieldWrite .adSmplt (bitWord b) s = { s with adSmplt := b } := by
  rw [fieldWrite_eq rfl]; simp [putField]

@[simp] theorem fieldWrite_pin (b : Bool) (s : State) :
    fieldWrite .pin (bitWord b) s = { s with pin := b } := by
  rw [fieldWrite_eq rfl]; simp [putField]

/-! ### The gate test, the start of a conversion, a micro-step's outcome -/

theorem gated_of_up {α : Type} {g : Gate} {s : State} (h : s.gate g = true) (a : α) :
    gated g s a = .ok a := by
  simp [gated, h]

theorem gated_ok_iff {α : Type} {g : Gate} {s : State} {a b : α} :
    gated g s a = .ok b ↔ s.gate g = true ∧ a = b := by
  unfold gated
  by_cases h : s.gate g = true <;> simp [h]

theorem gated_error_iff {α : Type} {g : Gate} {s : State} {a : α} {f : Fault} :
    gated g s a = .error f ↔ s.gate g = false ∧ f = .ungatedAccess g := by
  unfold gated
  cases h : s.gate g <;> simp [eq_comm]

@[simp] theorem startConversion_eq (sl : Slot) (s : State) :
    startConversion sl s =
      s.setConv sl { s.conv sl with coco := false, busy := decide ((s.conv sl).ch ≠ 31#5) } := rfl

@[simp] theorem finish_ok (s : State) : finish (.ok s) = .next s := rfl

@[simp] theorem finish_error (f : Fault) : finish (.error f) = .fault f := rfl

theorem finish_next_iff {e : Except Fault State} {t : State} : finish e = .next t ↔ e = .ok t := by
  cases e <;> simp [finish]

theorem finish_fault_iff {e : Except Fault State} {f : Fault} : finish e = .fault f ↔ e = .error f := by
  cases e <;> simp [finish]

theorem finish_not_refused (e : Except Fault State) (r : Refusal) : finish e ≠ .refused r := by
  cases e <;> simp [finish]

@[simp] theorem map_ok {α β : Type} (g : α → β) (a : α) :
    Except.map g (Except.ok a : Except Fault α) = .ok (g a) := rfl

theorem map_ok_iff {α β : Type} {e : Except Fault α} {g : α → β} {b : β} :
    e.map g = .ok b ↔ ∃ a, e = .ok a ∧ g a = b := by
  cases e <;> simp [Except.map]

theorem map_error_iff {α β : Type} {e : Except Fault α} {g : α → β} {f : Fault} :
    e.map g = .error f ↔ e = .error f := by
  cases e <;> simp [Except.map]

/-! ### Registers bit by bit -/

/-- The accumulated word of `regRead`, bit by bit. -/
theorem getLsbD_foldl_fields (l : List Field) (s : State) (w : Word) (i : Nat) (hi : i < 32) :
    (l.foldl (fun w f => w ||| (getField f s <<< fieldOff f)) w).getLsbD i =
      (w.getLsbD i || l.any fun f => decide (fieldOff f ≤ i) && (getField f s).getLsbD (i - fieldOff f)) := by
  induction l generalizing w with
  | nil => simp
  | cons f l ih =>
    rw [List.foldl_cons, ih]
    simp only [BitVec.getLsbD_or, BitVec.getLsbD_shiftLeft, List.any_cons, Bool.or_assoc, hi, decide_true, Bool.true_and]
    congr 2
    by_cases h : fieldOff f ≤ i
    · simp [h]
    · have : i < fieldOff f := by omega
      simp [h, this]

/-- A bit of a register is the bit of the field that holds it (10_state.md R40). -/
theorem getLsbD_regRead (r : Reg) (s : State) (i : Nat) (hi : i < 32) :
    (regRead r s).getLsbD i =
      (regFields r).any fun f => decide (fieldOff f ≤ i) && (getField f s).getLsbD (i - fieldOff f) := by
  unfold regRead
  rw [getLsbD_foldl_fields _ _ _ _ hi]
  simp

/-- A field's value has no bit above its width. -/
theorem getLsbD_getField_high (f : Field) (s : State) (i : Nat) (hi : fieldWidth f ≤ i) :
    (getField f s).getLsbD i = false := by
  rw [← getField_and_mask f s, BitVec.getLsbD_and, maskOf_getLsbD]
  simp
  intro
  omega

/-- A register reads the same when each of its fields does. -/
theorem regRead_congr {r : Reg} {s t : State} (h : ∀ g ∈ regFields r, getField g t = getField g s) :
    regRead r t = regRead r s := by
  apply BitVec.eq_of_getLsbD_eq
  intro i hi
  rw [getLsbD_regRead _ _ _ hi, getLsbD_regRead _ _ _ hi, Bool.eq_iff_iff, List.any_eq_true, List.any_eq_true]
  constructor
  · rintro ⟨g, hg, hx⟩
    exact ⟨g, hg, by rwa [h g hg] at hx⟩
  · rintro ⟨g, hg, hx⟩
    exact ⟨g, hg, by rwa [h g hg]⟩

/-- A field access with its gate up, or behind no gate, goes on. -/
theorem gatedField_of_up {α : Type} {f : Field} {s : State}
    (h : ∀ g, regGate (fieldReg f) = some g → s.gate g = true) (a : α) : gatedField f s a = .ok a := by
  unfold gatedField
  cases hg : regGate (fieldReg f) with
  | none => rfl
  | some g => exact gated_of_up (h g hg) a

end Sys2Proof.Machine
end

