-- ==== Sys2Proof/Laws/Step.lean ====
section
/-! SUPPORT. The step seen as one turn, and the state without the turn that was taken. -/

namespace Sys2Proof.Machine

open Sys2Proof

/-- A step is the next turn, taken on the state without it. -/
theorem step_eq_takeTurn (s : State) : step s = takeTurn (nextTurn s) (afterTurn s) := by
  unfold step nextTurn afterTurn
  cases h : s.turns with
  | nil =>
    have e : { s with turns := s.turns.tail } = s := by cases s; simp at h; subst h; rfl
    simp only [h, List.tail_nil] at e ⊢
    rw [e]
  | cons t rest => simp

@[simp] theorem afterTurn_cfg (s : State) : (afterTurn s).cfg = s.cfg := rfl
@[simp] theorem afterTurn_gateTmr (s : State) : (afterTurn s).gateTmr = s.gateTmr := rfl
@[simp] theorem afterTurn_gateAdc (s : State) : (afterTurn s).gateAdc = s.gateAdc := rfl
@[simp] theorem afterTurn_gatePin (s : State) : (afterTurn s).gatePin = s.gatePin := rfl
@[simp] theorem afterTurn_cw (s : State) : (afterTurn s).cw = s.cw := rfl
@[simp] theorem afterTurn_arg0 (s : State) : (afterTurn s).arg0 = s.arg0 := rfl
@[simp] theorem afterTurn_arg1 (s : State) : (afterTurn s).arg1 = s.arg1 := rfl
@[simp] theorem afterTurn_rspStatus (s : State) : (afterTurn s).rspStatus = s.rspStatus := rfl
@[simp] theorem afterTurn_rspData (s : State) : (afterTurn s).rspData = s.rspData := rfl
@[simp] theorem afterTurn_tmr0 (s : State) : (afterTurn s).tmr0 = s.tmr0 := rfl
@[simp] theorem afterTurn_tmr1 (s : State) : (afterTurn s).tmr1 = s.tmr1 := rfl
@[simp] theorem afterTurn_adA (s : State) : (afterTurn s).adA = s.adA := rfl
@[simp] theorem afterTurn_adB (s : State) : (afterTurn s).adB = s.adB := rfl
@[simp] theorem afterTurn_adIclk (s : State) : (afterTurn s).adIclk = s.adIclk := rfl
@[simp] theorem afterTurn_adMode (s : State) : (afterTurn s).adMode = s.adMode := rfl
@[simp] theorem afterTurn_adSmplt (s : State) : (afterTurn s).adSmplt = s.adSmplt := rfl
@[simp] theorem afterTurn_adDiv (s : State) : (afterTurn s).adDiv = s.adDiv := rfl
@[simp] theorem afterTurn_adTmo (s : State) : (afterTurn s).adTmo = s.adTmo := rfl
@[simp] theorem afterTurn_cb (s : State) : (afterTurn s).cb = s.cb := rfl
@[simp] theorem afterTurn_tick (s : State) : (afterTurn s).tick = s.tick := rfl
@[simp] theorem afterTurn_duty (s : State) : (afterTurn s).duty = s.duty := rfl
@[simp] theorem afterTurn_outLevel (s : State) : (afterTurn s).outLevel = s.outLevel := rfl
@[simp] theorem afterTurn_pin (s : State) : (afterTurn s).pin = s.pin := rfl
@[simp] theorem afterTurn_lpCode (s : State) : (afterTurn s).lpCode = s.lpCode := rfl
@[simp] theorem afterTurn_lpSlot (s : State) : (afterTurn s).lpSlot = s.lpSlot := rfl
@[simp] theorem afterTurn_lpDiff (s : State) : (afterTurn s).lpDiff = s.lpDiff := rfl
@[simp] theorem afterTurn_stLast (s : State) : (afterTurn s).stLast = s.stLast := rfl
@[simp] theorem afterTurn_stErr (s : State) : (afterTurn s).stErr = s.stErr := rfl
@[simp] theorem afterTurn_bg (s : State) : (afterTurn s).bg = s.bg := rfl
@[simp] theorem afterTurn_isr (s : State) : (afterTurn s).isr = s.isr := rfl
@[simp] theorem afterTurn_commands (s : State) : (afterTurn s).commands = s.commands := rfl
@[simp] theorem afterTurn_draws (s : State) : (afterTurn s).draws = s.draws := rfl
@[simp] theorem afterTurn_turns (s : State) : (afterTurn s).turns = s.turns.tail := rfl

@[simp] theorem timer_afterTurn (c : Chan) (s : State) : (afterTurn s).timer c = s.timer c := by
  cases c <;> rfl

@[simp] theorem conv_afterTurn (sl : Slot) (s : State) : (afterTurn s).conv sl = s.conv sl := by
  cases sl <;> rfl

@[simp] theorem gate_afterTurn (g : Gate) (s : State) : (afterTurn s).gate g = s.gate g := by
  cases g <;> rfl

@[simp] theorem latched_afterTurn (s : State) : latched (afterTurn s) = latched s := rfl

@[simp] theorem irqLine_afterTurn (s : State) : irqLine (afterTurn s) = irqLine s := rfl

/-- The turns, one by one. -/
theorem step_background {s : State} (h : nextTurn s = .background) :
    step s = backgroundTurn (afterTurn s) := by
  rw [step_eq_takeTurn, h]; rfl

theorem step_interrupt {s : State} (h : nextTurn s = .interrupt) :
    step s = finish (interruptTurn (afterTurn s)) := by
  rw [step_eq_takeTurn, h]; rfl

theorem step_spurious {s : State} (h : nextTurn s = .spurious) :
    step s = finish (spuriousTurn (afterTurn s)) := by
  rw [step_eq_takeTurn, h]; rfl

/-- What acceptance does: nothing, or the oldest presented command is latched. -/
theorem acceptNext_cases (s : State) :
    (s.commands = [] ∧ acceptNext s = s) ∨
      ∃ c rest, s.commands = c :: rest ∧ acceptNext s = accept c rest s := by
  unfold acceptNext
  cases h : s.commands with
  | nil => exact .inl ⟨rfl, rfl⟩
  | cons c rest => exact .inr ⟨c, rest, rfl, rfl⟩

/-- What acceptance leaves: everything but the port and the position. -/
theorem acceptNext_frame (s : State) :
    acceptNext s = { s with
      cw := (acceptNext s).cw, arg0 := (acceptNext s).arg0, arg1 := (acceptNext s).arg1
      commands := (acceptNext s).commands, bg := (acceptNext s).bg } ∧
      ((acceptNext s).bg = s.bg ∨ (acceptNext s).bg = .exec .first) := by
  rcases acceptNext_cases s with ⟨-, e⟩ | ⟨c, rest, -, e⟩ <;> rw [e]
  · exact ⟨rfl, .inl rfl⟩
  · exact ⟨rfl, .inr rfl⟩

/-- A turn of the background context outside a dispatch. -/
theorem backgroundTurn_of_none {s : State} (h : s.isr = .none) : backgroundTurn s = backgroundStep s :=
  if_pos (.inr h)

/-- A turn of the background context on an idle block, in a dispatch or not. -/
theorem backgroundTurn_of_idle {s : State} (h : s.bg = .idle) : backgroundTurn s = .next (acceptNext s) := by
  rw [backgroundTurn, if_pos (.inl h), backgroundStep, h]

/-- A turn of the background context in a dispatch, with a command in progress. -/
theorem backgroundTurn_of_dispatch {s : State} (hi : s.isr ≠ .none) (hb : s.bg ≠ .idle) :
    backgroundTurn s = .next s :=
  if_neg fun h => h.elim hb hi

/-- All that a turn of the background context can do. -/
theorem backgroundTurn_cases (s : State) :
    (s.bg = .idle ∧ backgroundTurn s = .next (acceptNext s)) ∨
      (s.bg ≠ .idle ∧ s.isr = .none ∧ backgroundTurn s = backgroundStep s) ∨
      (s.bg ≠ .idle ∧ s.isr ≠ .none ∧ backgroundTurn s = .next s) := by
  by_cases hb : s.bg = .idle
  · exact .inl ⟨hb, backgroundTurn_of_idle hb⟩
  · by_cases hi : s.isr = .none
    · exact .inr (.inl ⟨hb, hi, backgroundTurn_of_none hi⟩)
    · exact .inr (.inr ⟨hb, hi, backgroundTurn_of_dispatch hi hb⟩)

/-- With a turn at the head of the list, a step takes it. -/
theorem step_of_turns {s : State} {t : Turn} {rest : List Turn} (h : s.turns = t :: rest) :
    step s = takeTurn t { s with turns := rest } := by
  unfold step
  rw [h]

/-- The first of several steps. -/
theorem run_succ {n : Nat} {s t : State} (h : step s = .next t) : core.run (n + 1) s = core.run n t := by
  simp only [Host.Core.run, core, h]

/-- Runs compose. -/
theorem run_add (m n : Nat) (s t : State) (h : core.run m s = .next t) : core.run (m + n) s = core.run n t := by
  induction m generalizing s with
  | zero =>
    have e : s = t := Host.Outcome.next.inj h
    subst e
    simp
  | succ k ih =>
    rw [show k + 1 + n = (k + n) + 1 by omega]
    simp only [Host.Core.run] at h ⊢
    split at h
    · exact ih _ h
    · cases h
    · cases h

end Sys2Proof.Machine
end

