-- ==== Sys2Proof/Laws/Exec.lean ====
section
/-! SUPPORT. What no micro-step of any operation changes, said once for each shared operation and then for `exec`: the
configuration, the clock gates, the latched words, `TICK`, the position of the interrupt context, the pending commands
and turns. -/

namespace Sys2Proof.Machine

open Sys2Proof

/-- What a background micro-step leaves alone (20_memory.md R56, R57; 60_exceptions.md R152). -/
structure Kept (s t : State) : Prop where
  cfg : t.cfg = s.cfg
  gateTmr : t.gateTmr = s.gateTmr
  gateAdc : t.gateAdc = s.gateAdc
  gatePin : t.gatePin = s.gatePin
  cw : t.cw = s.cw
  arg0 : t.arg0 = s.arg0
  arg1 : t.arg1 = s.arg1
  tick : t.tick = s.tick
  isr : t.isr = s.isr
  commands : t.commands = s.commands
  turns : t.turns = s.turns

theorem Kept.refl (s : State) : Kept s s := ⟨rfl, rfl, rfl, rfl, rfl, rfl, rfl, rfl, rfl, rfl, rfl⟩

theorem Kept.trans {s t u : State} (h : Kept s t) (k : Kept t u) : Kept s u := by
  constructor
  · exact k.cfg.trans h.cfg
  · exact k.gateTmr.trans h.gateTmr
  · exact k.gateAdc.trans h.gateAdc
  · exact k.gatePin.trans h.gatePin
  · exact k.cw.trans h.cw
  · exact k.arg0.trans h.arg0
  · exact k.arg1.trans h.arg1
  · exact k.tick.trans h.tick
  · exact k.isr.trans h.isr
  · exact k.commands.trans h.commands
  · exact k.turns.trans h.turns

theorem Kept.latched {s t : State} (h : Kept s t) : latched t = latched s := by
  simp [Machine.latched, h.cw, h.arg0, h.arg1]

theorem Kept.gate {s t : State} (h : Kept s t) (g : Gate) : t.gate g = s.gate g := by
  cases g
  · exact h.gateTmr
  · exact h.gateAdc
  · exact h.gatePin

theorem kept_note (st : Status) (s : State) : Kept s (note st s) :=
  ⟨rfl, rfl, rfl, rfl, rfl, rfl, rfl, rfl, rfl, rfl, rfl⟩

theorem kept_respond (st : Status) (w : Word) (s : State) : Kept s (respond st w s) :=
  ⟨rfl, rfl, rfl, rfl, rfl, rfl, rfl, rfl, rfl, rfl, rfl⟩

theorem kept_advance (k : Micro) (s : State) : Kept s (advance k s) :=
  ⟨rfl, rfl, rfl, rfl, rfl, rfl, rfl, rfl, rfl, rfl, rfl⟩

theorem kept_setTimer (c : Chan) (v : TimerChannel) (s : State) : Kept s (s.setTimer c v) := by
  cases c <;> exact ⟨rfl, rfl, rfl, rfl, rfl, rfl, rfl, rfl, rfl, rfl, rfl⟩

theorem kept_setConv (sl : Slot) (v : ConvSlot) (s : State) : Kept s (s.setConv sl v) := by
  cases sl <;> exact ⟨rfl, rfl, rfl, rfl, rfl, rfl, rfl, rfl, rfl, rfl, rfl⟩

theorem kept_putField {f : Field} (h : f ≠ .tick) (v : Word) (s : State) : Kept s (putField f v s) := by
  cases f <;>
    first
      | exact absurd rfl h
      | exact kept_setTimer _ _ _
      | exact kept_setConv _ _ _
      | exact ⟨rfl, rfl, rfl, rfl, rfl, rfl, rfl, rfl, rfl, rfl, rfl⟩

theorem kept_fieldWrite {f : Field} (h : fieldAcc f = .rw) (v : Word) (s : State) :
    Kept s (fieldWrite f v s) := by
  rw [fieldWrite_eq h]
  exact kept_putField (by rintro rfl; cases h) v s

theorem kept_startConversion (sl : Slot) (s : State) : Kept s (startConversion sl s) := kept_setConv _ _ _

theorem kept_of_gated {g : Gate} {s t u : State} (h : gated g s u = .ok t) (hu : Kept s u) : Kept s t := by
  obtain ⟨-, rfl⟩ := gated_ok_iff.mp h
  exact hu

theorem kept_selectMode {sl : Slot} {b : Bool} {s t : State} (h : selectMode sl b s = .ok t) : Kept s t :=
  kept_of_gated h (kept_fieldWrite rfl _ _)

theorem kept_selectCode {sl : Slot} {code : Nat} {b : Bool} {s t : State}
    (h : selectCode sl code b s = .ok t) : Kept s t :=
  kept_of_gated h ((kept_fieldWrite rfl _ _).trans (kept_startConversion _ _))

theorem kept_readSlot {sl : Slot} {s t : State} {w : Word} (h : readSlot sl s = .ok (w, t)) : Kept s t := by
  obtain ⟨-, h⟩ := gated_ok_iff.mp h
  cases h
  exact (kept_setConv sl _ s).trans ⟨rfl, rfl, rfl, rfl, rfl, rfl, rfl, rfl, rfl, rfl, rfl⟩

theorem kept_driveStep {s t : State} (h : driveStep s = .ok t) : Kept s t :=
  kept_of_gated h (kept_fieldWrite rfl _ _)

theorem kept_writeLoad {c : Chan} {w : Word} {s t : State} (h : writeLoad c w s = .ok t) : Kept s t :=
  kept_of_gated h (by rw [regWrite_tLoad]; exact kept_setTimer _ _ _)

theorem kept_writeChain {c : Chan} {b : Bool} {s t : State} (h : writeChain c b s = .ok t) : Kept s t :=
  kept_of_gated h (kept_fieldWrite rfl _ _)

theorem kept_writeArm {c : Chan} {b : Bool} {s t : State} (h : writeArm c b s = .ok t) : Kept s t :=
  kept_of_gated h (kept_fieldWrite rfl _ _)

theorem kept_writeRunState {c : Chan} {b : Bool} {s t : State} (h : writeRunState c b s = .ok t) :
    Kept s t :=
  kept_of_gated h (kept_fieldWrite rfl _ _)

theorem kept_afterLoopPoll (sl : Slot) (s1 : Status) (bound : Word) (s : State) (p : Poll) :
    Kept s (afterLoopPoll sl s1 bound s p).2 := by
  cases p with
  | ended st =>
    unfold afterLoopPoll
    dsimp only
    split
    · exact Kept.refl s
    · exact kept_note st s
  | again left => exact Kept.refl s

theorem kept_loopStep {p : LoopPos} {s t : State} {n : LoopNext} (h : loopStep p s = .ok (n, t)) :
    Kept s t := by
  cases p with
  | line0 => cases h; exact Kept.refl s
  | select slot c m =>
    unfold loopStep at h
    dsimp only at h
    split at h
    · cases h; exact kept_note _ s
    · obtain ⟨a, ha, he⟩ := map_ok_iff.mp h
      cases he
      exact kept_selectMode ha
  | code sl c m =>
    obtain ⟨a, ha, he⟩ := map_ok_iff.mp h
    cases he
    exact (kept_selectCode ha).trans (kept_note _ _)
  | wait sl s1 =>
    obtain ⟨a, -, he⟩ := map_ok_iff.mp h
    rw [show t = (afterLoopPoll sl s1 s.adTmo s a).2 from by rw [he]]
    exact kept_afterLoopPoll _ _ _ _ _
  | poll sl s1 bound left =>
    obtain ⟨a, -, he⟩ := map_ok_iff.mp h
    rw [show t = (afterLoopPoll sl s1 bound s a).2 from by rw [he]]
    exact kept_afterLoopPoll _ _ _ _ _
  | read sl s1 =>
    obtain ⟨a, ha, he⟩ := map_ok_iff.mp h
    cases he
    exact kept_readSlot ha
  | duty s1 s2 v => cases h; exact ⟨rfl, rfl, rfl, rfl, rfl, rfl, rfl, rfl, rfl, rfl, rfl⟩
  | compare st => cases h; exact ⟨rfl, rfl, rfl, rfl, rfl, rfl, rfl, rfl, rfl, rfl, rfl⟩
  | drive st =>
    obtain ⟨a, ha, he⟩ := map_ok_iff.mp h
    cases he
    exact kept_driveStep ha

theorem kept_initGoto (p : InitPos) (s : State) : Kept s (initGoto p s) := kept_advance _ s

theorem kept_initStep {a : InitArgs} {p : InitPos} {s t : State} (h : initStep a p s = .ok t) :
    Kept s t := by
  cases p with
  | line1 | line2 | line3 | line4 =>
    exact kept_of_gated h ((kept_fieldWrite rfl _ _).trans (kept_initGoto _ _))
  | line5 =>
    unfold initStep at h
    dsimp only at h
    split at h
    · cases h; exact kept_initGoto _ s
    · exact kept_of_gated h ((kept_fieldWrite rfl _ _).trans (kept_initGoto _ _))
  | line6 => cases h; exact ⟨rfl, rfl, rfl, rfl, rfl, rfl, rfl, rfl, rfl, rfl, rfl⟩
  | select =>
    unfold initStep at h
    dsimp only at h
    split at h
    · cases h; exact (kept_note _ s).trans (kept_initGoto _ _)
    · obtain ⟨u, hu, rfl⟩ := map_ok_iff.mp h
      exact (kept_selectMode hu).trans (kept_initGoto _ _)
  | code sl =>
    obtain ⟨u, hu, rfl⟩ := map_ok_iff.mp h
    exact (kept_selectCode hu).trans ((kept_note _ _).trans (kept_initGoto _ _))
  | load s1 =>
    unfold initStep at h
    dsimp only at h
    split at h
    · cases h; exact (kept_note _ s).trans (kept_initGoto _ _)
    · obtain ⟨u, hu, rfl⟩ := map_ok_iff.mp h
      exact (kept_writeLoad hu).trans (kept_initGoto _ _)
  | chain c s1 =>
    obtain ⟨u, hu, rfl⟩ := map_ok_iff.mp h
    exact (kept_writeChain hu).trans (kept_initGoto _ _)
  | arm c s1 =>
    obtain ⟨u, hu, rfl⟩ := map_ok_iff.mp h
    exact (kept_writeArm hu).trans (kept_initGoto _ _)
  | runState s1 s2 =>
    unfold initStep at h
    dsimp only at h
    split at h
    · cases h; exact kept_initGoto _ s
    · obtain ⟨u, hu, rfl⟩ := map_ok_iff.mp h
      exact (kept_writeRunState hu).trans (kept_initGoto _ _)
  | callback s1 s2 =>
    cases h
    exact Kept.trans (t := { s with cb := s.cfg.cbTick })
      ⟨rfl, rfl, rfl, rfl, rfl, rfl, rfl, rfl, rfl, rfl, rfl⟩ (kept_respond _ _ _)

theorem kept_gatedField {f : Field} {s t u : State} (h : gatedField f s u = .ok t) (hu : Kept s u) :
    Kept s t := by
  unfold gatedField at h
  split at h
  · exact kept_of_gated h hu
  · cases h; exact hu

theorem kept_ralStore {f : Field} (hf : fieldAcc f ≠ .ro) (v : Word) (s : State) :
    Kept s (ralStore f v s) := by
  unfold ralStore
  split
  · exact kept_putField (by rintro rfl; exact hf rfl) _ _
  · rename_i h
    have hrw : fieldAcc f = .rw := by
      cases hacc : fieldAcc f <;> simp_all
    split
    · exact (kept_fieldWrite hrw _ _).trans (kept_startConversion _ _)
    · exact kept_fieldWrite hrw _ _

/-- A micro-step of any operation keeps what `Kept` names. -/
theorem kept_exec {i : Instr} {s t : State} (h : exec i s = .next t) : Kept s t := by
  cases i with
  | ralwr fid v =>
    unfold exec execRalwr at h
    dsimp only at h
    split at h
    · cases h; exact kept_respond _ _ s
    · split at h
      · cases h; exact kept_respond _ _ s
      · rename_i hro
        refine kept_gatedField (finish_next_iff.mp h) ?_
        split
        · exact (kept_ralStore hro _ _).trans (kept_respond _ _ _)
        · exact kept_respond _ _ _
  | ralrd fid =>
    unfold exec execRalrd at h
    dsimp only at h
    split at h
    · cases h; exact kept_respond _ _ s
    · exact kept_gatedField (finish_next_iff.mp h) (kept_respond _ _ _)
  | tcfg ch load chained ie =>
    unfold exec execTcfg at h
    dsimp only at h
    split at h
    · cases h; exact kept_respond _ _ s
    · split at h
      · obtain ⟨u, hu, rfl⟩ := map_ok_iff.mp (finish_next_iff.mp h)
        exact (kept_writeChain hu).trans (kept_advance _ _)
      · obtain ⟨u, hu, rfl⟩ := map_ok_iff.mp (finish_next_iff.mp h)
        exact (kept_writeArm hu).trans (kept_advance _ _)
      · cases h; exact kept_respond _ _ s
      · obtain ⟨u, hu, rfl⟩ := map_ok_iff.mp (finish_next_iff.mp h)
        exact (kept_writeLoad hu).trans (kept_advance _ _)
  | tstart ch =>
    unfold exec execTstart at h
    dsimp only at h
    split at h
    · cases h; exact kept_respond _ _ s
    · obtain ⟨u, hu, rfl⟩ := map_ok_iff.mp (finish_next_iff.mp h)
      exact (kept_writeRunState hu).trans (kept_respond _ _ _)
  | tstop ch =>
    unfold exec execTstop at h
    dsimp only at h
    split at h
    · cases h; exact kept_respond _ _ s
    · obtain ⟨u, hu, rfl⟩ := map_ok_iff.mp (finish_next_iff.mp h)
      exact (kept_writeRunState hu).trans (kept_respond _ _ _)
  | cbreg handle =>
    cases h
    exact Kept.trans (t := { s with cb := handle })
      ⟨rfl, rfl, rfl, rfl, rfl, rfl, rfl, rfl, rfl, rfl, rfl⟩ (kept_respond _ _ _)
  | adsel slot code diff =>
    unfold exec execAdsel at h
    dsimp only at h
    split at h
    · cases h; exact kept_respond _ _ s
    · split at h
      · obtain ⟨u, hu, rfl⟩ := map_ok_iff.mp (finish_next_iff.mp h)
        exact (kept_selectCode hu).trans (kept_respond _ _ _)
      · obtain ⟨u, hu, rfl⟩ := map_ok_iff.mp (finish_next_iff.mp h)
        exact (kept_selectMode hu).trans (kept_advance _ _)
  | adwait slot =>
    unfold exec execAdwait at h
    dsimp only at h
    split at h
    · cases h; exact kept_respond _ _ s
    · split at h <;>
      · obtain ⟨p, -, rfl⟩ := map_ok_iff.mp (finish_next_iff.mp h)
        cases p with
        | ended st => exact kept_respond _ _ s
        | again left => exact kept_advance _ s
  | adread slot =>
    unfold exec execAdread at h
    dsimp only at h
    split at h
    · cases h; exact kept_respond _ _ s
    · obtain ⟨u, hu, rfl⟩ := map_ok_iff.mp (finish_next_iff.mp h)
      exact (kept_readSlot hu).trans (kept_respond _ _ _)
  | dmap v => cases h; exact kept_respond _ _ s
  | pwmupd =>
    unfold exec execPwmupd at h
    dsimp only at h
    split at h
    · obtain ⟨u, hu, rfl⟩ := map_ok_iff.mp (finish_next_iff.mp h)
      exact (kept_driveStep hu).trans (kept_respond _ _ _)
    · exact kept_of_gated (finish_next_iff.mp h) (Kept.trans (t := compareStep s)
        ⟨rfl, rfl, rfl, rfl, rfl, rfl, rfl, rfl, rfl, rfl, rfl⟩ (kept_advance _ _))
  | loopit =>
    unfold exec execLoopit at h
    dsimp only at h
    split at h <;>
    · obtain ⟨⟨n, u⟩, hu, rfl⟩ := map_ok_iff.mp (finish_next_iff.mp h)
      refine (kept_loopStep hu).trans ?_
      cases n with
      | goto p => exact kept_advance _ u
      | ended st => exact kept_respond _ _ u
  | run =>
    unfold exec execRun at h
    dsimp only at h
    split at h
    · obtain ⟨⟨n, u⟩, hu, rfl⟩ := map_ok_iff.mp (finish_next_iff.mp h)
      refine (kept_loopStep hu).trans ?_
      cases n with
      | goto p => exact ⟨rfl, rfl, rfl, rfl, rfl, rfl, rfl, rfl, rfl, rfl, rfl⟩
      | ended st => exact ⟨rfl, rfl, rfl, rfl, rfl, rfl, rfl, rfl, rfl, rfl, rfl⟩
    · cases h; exact ⟨rfl, rfl, rfl, rfl, rfl, rfl, rfl, rfl, rfl, rfl, rfl⟩
  | init a =>
    unfold exec execInit at h
    dsimp only at h
    split at h
    · exact kept_initStep (finish_next_iff.mp h)
    · split at h <;> cases h
      · exact kept_initGoto _ s
      · exact kept_respond _ _ s

end Sys2Proof.Machine
end

