-- ==== Sys2Proof/Laws/PerInstr.lean ====
section
/-! SUPPORT. The family `EncodesItsRow`: the command word that the encoder writes is selected by its row of the opcode map. -/

namespace Sys2Proof.Laws.EncodesItsRow

open Sys2Proof

/-- The row of an instruction (30_encoding.md R68). -/
def row : Instr → Op
  | .ralwr _ _ => .ralwr
  | .ralrd _ => .ralrd
  | .tcfg _ _ _ _ => .tcfg
  | .tstart _ => .tstart
  | .tstop _ => .tstop
  | .cbreg _ => .cbreg
  | .adsel _ _ _ => .adsel
  | .adwait _ => .adwait
  | .adread _ => .adread
  | .dmap _ => .dmap
  | .pwmupd => .pwmupd
  | .loopit => .loopit
  | .run => .run
  | .init _ => .init

/-- "A command word `w` selects the row when `(w and mask) = match`" (30_encoding.md R68): the encoder's word selects the
instruction's own row, whatever the operands are. -/
def Statement (i : Instr) : Prop := (encode i).cw &&& (row i).mask = (row i).pattern

theorem selects_of_bits {w m p : Word}
    (h : ∀ i, i < 32 → (w.getLsbD i && m.getLsbD i) = p.getLsbD i) : w &&& m = p := by
  apply BitVec.eq_of_getLsbD_eq
  intro i hi
  rw [BitVec.getLsbD_and, h i hi]

theorem ralwr (fid : Nat) (value : Word) : Statement (.ralwr fid value) := by
  apply selects_of_bits
  intro i hi
  simp only [encode, row, Op.mask, Op.pattern, packCw_getLsbD]
  interval_cases i <;> simp <;> decide

theorem ralrd (fid : Nat) : Statement (.ralrd fid) := by
  apply selects_of_bits
  intro i hi
  simp only [encode, row, Op.mask, Op.pattern, packCw_getLsbD]
  interval_cases i <;> simp <;> decide

theorem tcfg (ch : Nat) (load : Word) (chained ie : Bool) : Statement (.tcfg ch load chained ie) := by
  apply selects_of_bits
  intro i hi
  simp only [encode, row, Op.mask, Op.pattern, packCw_getLsbD]
  interval_cases i <;> cases chained <;> cases ie <;> simp <;> decide

theorem tstart (ch : Nat) : Statement (.tstart ch) := by
  apply selects_of_bits
  intro i hi
  simp only [encode, row, Op.mask, Op.pattern, packCw_getLsbD]
  interval_cases i <;> simp <;> decide

theorem tstop (ch : Nat) : Statement (.tstop ch) := by
  apply selects_of_bits
  intro i hi
  simp only [encode, row, Op.mask, Op.pattern, packCw_getLsbD]
  interval_cases i <;> simp <;> decide

theorem cbreg (handle : Word) : Statement (.cbreg handle) := by
  show packCw 0x13 0 0 0 &&& 0xFFFFFFFF#32 = 0x13000000#32
  decide

theorem adsel (slot code : Nat) (diff : Bool) : Statement (.adsel slot code diff) := by
  apply selects_of_bits
  intro i hi
  simp only [encode, row, Op.mask, Op.pattern, packCw_getLsbD]
  interval_cases i <;> cases diff <;> simp <;> decide

theorem adwait (slot : Nat) : Statement (.adwait slot) := by
  apply selects_of_bits
  intro i hi
  simp only [encode, row, Op.mask, Op.pattern, packCw_getLsbD]
  interval_cases i <;> simp <;> decide

theorem adread (slot : Nat) : Statement (.adread slot) := by
  apply selects_of_bits
  intro i hi
  simp only [encode, row, Op.mask, Op.pattern, packCw_getLsbD]
  interval_cases i <;> simp <;> decide

theorem dmap (v : Word) : Statement (.dmap v) := by
  show packCw 0x30 0 0 0 &&& 0xFFFFFFFF#32 = 0x30000000#32
  decide

theorem pwmupd : Statement .pwmupd := by
  show packCw 0x31 0 0 0 &&& 0xFFFFFFFF#32 = 0x31000000#32
  decide

theorem loopit : Statement .loopit := by
  show packCw 0x32 0 0 0 &&& 0xFFFFFFFF#32 = 0x32000000#32
  decide

theorem run : Statement .run := by
  show packCw 0x33 0 0 0 &&& 0xFFFFFFFF#32 = 0x33000000#32
  decide

theorem init (args : InitArgs) : Statement (.init args) := by
  apply selects_of_bits
  intro i hi
  simp only [encode, row, Op.mask, Op.pattern, packCw_getLsbD]
  interval_cases i <;> simp <;> decide

end Sys2Proof.Laws.EncodesItsRow
end

