-- ==== Sys2Proof/Tests/Slice0.lean ====
section
/-! SUPPORT. Small tests: what WellFormed refuses, the decoding of words written out from 30_encoding.md, one or two vectors of
95_test_vectors.md for each operation, and for each obligation with hypotheses an input that meets them. Every
expected value is the vector's, not the model's. -/

namespace Sys2Proof.Tests

open Sys2Proof Sys2Proof.Machine

/-- The test configuration after reset with all gates 1 (95_test_vectors.md). -/
def ready : State := State.resetWith Config.default true true true

/-- `n` micro-steps of `i` from `s` end in a state with property `p`. -/
def after (i : Instr) (n : Nat) (s : State) (p : State → Bool) : Bool :=
  match execTimes i n s with
  | .next t => p t
  | _ => false

/-- `n` steps of the block from `s` end in a state with property `p`. -/
def stepped (n : Nat) (s : State) (p : State → Bool) : Bool :=
  match core.run n s with
  | .next t => p t
  | _ => false

/-- The outcome is the fault of an access behind gate `g`. -/
def stops (o : Host.Outcome State Fault Refusal) (g : Gate) : Bool :=
  match o with
  | .fault (.ungatedAccess h) => decide (h = g)
  | _ => false

/-- The command at its first micro-step. -/
def started (s : State) : State := { s with bg := .exec .first }

/-- The words `CW / ARG0 / ARG1` accepted and the background context next. -/
def placed (cw arg0 arg1 : Word) (s : State) : State :=
  { started s with cw := cw, arg0 := arg0, arg1 := arg1, turns := [.background] }

/-- The response and the image of `STATUS` and of one more register. -/
def answers (st : BitVec 4) (rdata : Word) (status : Word) (r : Reg) (w : Word) (t : State) : Bool :=
  decide (t.bg = .idle ∧ t.rspStatus = st ∧ t.rspData = rdata ∧ regRead .status t = status ∧ regRead r t = w)

/-- The dispatch vectors' start (95_test_vectors.md, 2.6): `(T_IF[0], T_IF[1], T_IE[0], T_IE[1], CB, TICK)`. -/
def irqState (f0 f1 e0 e1 : Bool) (cb : Word) (tick : BitVec 7) : State :=
  { ready with
    tmr0 := { ready.tmr0 with flag := f0, ie := e0 }
    tmr1 := { ready.tmr1 with flag := f1, ie := e1 }
    cb := cb, tick := tick }

/-- The end of a dispatch vector. -/
def irqEnd (f0 f1 : Bool) (cb : Word) (tick : BitVec 7) (t : State) : Bool :=
  decide (t.tmr0.flag = f0 ∧ t.tmr1.flag = f1 ∧ t.cb = cb ∧ t.tick = tick ∧ t.isr = .none)

/-- The records of vector I1. -/
def argsI1 : InitArgs :=
  ⟨true, true, true, 0#2, 0#2, false, 0#2, 0, 8, false, false, 0, true, false, true, 0xBB7F#32⟩

/-- The records of vector I2. -/
def argsI2 : InitArgs :=
  ⟨true, true, true, 1#2, 0#2, true, 2#2, 1, 26, true, true, 1, false, true, false, 1000#32⟩

/-! ### WellFormed: one ill-formed term for each check -/

theorem test_illFormed_ralwr :
    (.ralwr 256 0#32 : Instr).wellFormed = false := by decide

theorem test_illFormed_ralrd :
    (.ralrd 256 : Instr).wellFormed = false := by decide

theorem test_illFormed_tcfg :
    (.tcfg 256 0#32 false false : Instr).wellFormed = false := by decide

theorem test_illFormed_tstart :
    (.tstart 256 : Instr).wellFormed = false := by decide

theorem test_illFormed_tstop :
    (.tstop 256 : Instr).wellFormed = false := by decide

theorem test_illFormed_adsel_slot :
    (.adsel 256 8 false : Instr).wellFormed = false := by decide

theorem test_illFormed_adsel_code :
    (.adsel 0 256 false : Instr).wellFormed = false := by decide

theorem test_illFormed_adwait :
    (.adwait 256 : Instr).wellFormed = false := by decide

theorem test_illFormed_adread :
    (.adread 256 : Instr).wellFormed = false := by decide

theorem test_illFormed_init_tIndex :
    (Instr.init { argsI1 with tIndex := 256 }).wellFormed = false := by decide

theorem test_illFormed_init_sSlot :
    (Instr.init { argsI1 with sSlot := 256 }).wellFormed = false := by decide

theorem test_illFormed_init_sCode :
    (Instr.init { argsI1 with sCode := 256 }).wellFormed = false := by decide

/-- A configuration with equal thresholds is refused (45_cross_family_laws.md R177). -/
theorem test_configLegal_thresholds :
    ¬ ConfigLegal 100 100 3 29 8 16 16 16 1#32 ∧ ConfigLegal 99 100 3 29 8 16 16 16 1#32 := by decide

/-! ### Decoding: words written out from 30_encoding.md R67 to R70 -/

theorem test_decode_ralwr :
    decode ⟨0b00000001_11111111_00000000_00000000#32, 0xDEADBEEF#32, 0#32⟩ = .ok (.ralwr 0xFF 0xDEADBEEF#32) := by decide

theorem test_decode_ralrd :
    decode ⟨0b00000010_10000001_00000000_00000000#32, 7#32, 9#32⟩ = .ok (.ralrd 0x81) := by decide

theorem test_decode_tcfg :
    decode ⟨0b00010000_00000001_00000010_00000000#32, 0xBB7F#32, 0#32⟩ = .ok (.tcfg 1 0xBB7F#32 false true) := by decide

theorem test_decode_tstart :
    decode ⟨0b00010001_11111111_00000000_00000000#32, 0#32, 0#32⟩ = .ok (.tstart 255) := by decide

theorem test_decode_tstop :
    decode ⟨0b00010010_00000111_00000000_00000000#32, 0#32, 0#32⟩ = .ok (.tstop 7) := by decide

theorem test_decode_cbreg :
    decode ⟨0b00010011_00000000_00000000_00000000#32, 0xCAFE0000#32, 0#32⟩ = .ok (.cbreg 0xCAFE0000#32) := by decide

theorem test_decode_adsel :
    decode ⟨0b00100000_00000001_00000001_00011000#32, 0#32, 0#32⟩ = .ok (.adsel 1 24 true) := by decide

theorem test_decode_adwait :
    decode ⟨0b00100001_00000011_00000000_00000000#32, 0#32, 0#32⟩ = .ok (.adwait 3) := by decide

theorem test_decode_adread :
    decode ⟨0b00100010_00001001_00000000_00000000#32, 0#32, 0#32⟩ = .ok (.adread 9) := by decide

theorem test_decode_dmap :
    decode ⟨0b00110000_00000000_00000000_00000000#32, 0xFFFFFFFF#32, 0#32⟩ = .ok (.dmap 0xFFFFFFFF#32) := by decide

theorem test_decode_pwmupd :
    decode ⟨0b00110001_00000000_00000000_00000000#32, 0#32, 0#32⟩ = .ok (.pwmupd) := by decide

theorem test_decode_loopit :
    decode ⟨0b00110010_00000000_00000000_00000000#32, 0xFFFFFFFF#32, 0xFFFFFFFF#32⟩ = .ok (.loopit) := by decide

theorem test_decode_run :
    decode ⟨0b00110011_00000000_00000000_00000000#32, 0#32, 0#32⟩ = .ok (.run) := by decide

theorem test_decode_init :
    decode ⟨0b00110100_00000000_11100110_00001000#32, 0#32, 0xBB7F#32⟩ = .ok (.init argsI1) := by decide

/-- Vector I2: every record field away from 0. -/
theorem test_decode_init_fields :
    decode ⟨0x3401F91A#32, 0x00000151#32, 0x000003E8#32⟩ = .ok (.init argsI2) := by decide

/-- Vectors E1 to E10. -/
theorem test_decode_rejects :
    decode ⟨0x00000000#32, 0#32, 0#32⟩ = .error .reservedOp ∧
    decode ⟨0xFF000000#32, 0#32, 0#32⟩ = .error .reservedOp ∧
    decode ⟨0x35000000#32, 0#32, 0#32⟩ = .error .reservedOp ∧
    decode ⟨0x31000001#32, 0#32, 0#32⟩ = .error .reservedBits ∧
    decode ⟨0x13010000#32, 1#32, 0#32⟩ = .error .reservedBits ∧
    decode ⟨0x10000400#32, 5#32, 0#32⟩ = .error .reservedBits ∧
    decode ⟨0x20000208#32, 0#32, 0#32⟩ = .error .reservedBits ∧
    decode ⟨0x01020100#32, 1#32, 0#32⟩ = .error .reservedBits ∧
    decode ⟨0x3400E608#32, 0x00000080#32, 0#32⟩ = .error .reservedArg0 ∧
    decode ⟨0x3400E608#32, 0x00010000#32, 0#32⟩ = .error .reservedArg0 := by decide

theorem test_decodeTableWord :
    decodeTableWord 96 (0x3401F91A + 0x151 * 2 ^ 32 + 1000 * 2 ^ 64) = some (.init argsI2) := by decide

/-- After reset a placed word is the first instruction to run. -/
theorem test_withFetchWord_runs :
    stepped 1 (State.reset.withFetchWord 96 0x11000000) (answers 0 0#32 0#32 (.tCtrl .ch0) 1#32) = true := by decide

/-- Vector E1. -/
theorem test_illegalCommand :
    stepped 1 (placed 0#32 0#32 0#32 ready) (answers 6 0#32 0x00004006#32 .adCfg 0#32) = true := by decide

/-! ### Register Access Layer -/

/-- Vector A8. -/
theorem test_ralwr_A8 :
    after (.ralwr 0x41 0#32) 1 { ready with adIclk := 3#2, adMode := 3#2, adSmplt := true, adDiv := 3#2 }
      (answers 0 0#32 0#32 .adCfg 0x73#32) = true := by decide

/-- Vectors A3, A16. -/
theorem test_ralwr_A3_A16 :
    after (.ralwr 0x52 101#32) 1 { ready with duty := 7#7 } (answers 5 0#32 0x00002005#32 .duty 7#32) = true ∧
    after (.ralwr 0x81 0x10#32) 1 { ready with stLast := 4#4, stErr := 0b0010100#7 }
      (fun t => answers 0 0#32 0x00000400#32 .duty 0#32 t && faultOut t) = true := by decide

/-- Vectors A18, A20. -/
theorem test_ralrd_A18_A20 :
    after (.ralrd 0x23) 1 { ready with adA := { ready.adA with ch := 8#5, diff := true, coco := true } }
      (answers 0 1#32 0#32 (.adSc .a) 0xA8#32) = true ∧
    after (.ralrd 0x80) 1 { ready with stLast := 5#4, stErr := 0b0100000#7 }
      (answers 0 5#32 0x00002000#32 .duty 0#32) = true := by decide

/-- Vectors A21, A22. -/
theorem test_ralrd_A21_A22 :
    stops (exec (.ralrd 0x00) State.reset) .tmr = true ∧
    after (.ralrd 0x51) 1 State.reset (answers 0 0#32 0#32 .tick 0#32) = true := by decide

/-! ### Timer Scheduler -/

/-- Vector T2. -/
theorem test_tcfg_T2 :
    after (.tcfg 1 0xFFFFFFFF#32 true false) 4 (started ready)
      (fun t => answers 0 0#32 0#32 (.tLoad .ch1) 0xFFFFFFFF#32 t && decide (regRead (.tCtrl .ch1) t = 4#32 ∧ t.tmr0 = ready.tmr0)) = true := by decide

/-- Vector T12: a dispatch runs between micro-step 3 and the response. -/
theorem test_tcfg_T12 :
    stepped 12 { placed 0x10000200#32 5#32 0#32 { ready with tmr0 := ⟨0#32, true, false, false, true⟩, cb := 1#32 } with
        turns := List.replicate 3 Turn.background ++ List.replicate 8 Turn.interrupt ++ [.background] }
      (fun t => answers 0 0#32 0#32 .tick 1#32 t && !t.tmr0.flag && t.tmr0.ie) = true := by decide

/-- Vector T5. -/
theorem test_tcfg_T5 :
    after (.tcfg 2 9#32 true true) 1 (started ready) (answers 1 0#32 0x00000201#32 (.tLoad .ch0) 0#32) = true := by decide

/-- Vectors T4, T14. -/
theorem test_tstart_T4_T14 :
    after (.tstart 0) 1 { ready with tmr0 := ⟨0#32, false, true, true, false⟩ } (answers 0 0#32 0#32 (.tCtrl .ch0) 7#32) = true ∧
    after (.tstart 2) 1 State.reset (answers 1 0#32 0x00000201#32 (.tCtrl .ch0) 0#32) = true := by decide

/-- Vector T8. -/
theorem test_tstop_T8 :
    after (.tstop 1) 1 { ready with tmr1 := ⟨0#32, true, true, true, true⟩ }
      (fun t => answers 0 0#32 0#32 (.tCtrl .ch1) 6#32 t && t.tmr1.flag && irqLine t) = true := by decide

/-- Vector T11. -/
theorem test_cbreg_T11 :
    after (.cbreg 0xCAFE0000#32) 1 State.reset (answers 0 0#32 0#32 .cb 0xCAFE0000#32) = true := by decide

/-! ### Conversion Sequencer -/

/-- Vector Q1, both columns. -/
theorem test_resolve_Q1 :
    (List.range 33).map (fun c => resolve Config.default c true) =
      [0, 1, 2, 3, 31, 31, 31, 31, 31, 31, 31, 31, 31, 31, 31, 31, 31, 31, 31, 31, 31, 31, 31, 31, 31, 31, 26, 27,
       31, 29, 31, 31, 31] ∧
    (List.range 33).map (fun c => resolve Config.default c false) =
      [0, 1, 2, 3, 4, 5, 6, 7, 8, 9, 10, 11, 12, 13, 14, 15, 16, 17, 18, 19, 20, 21, 22, 23, 31, 31, 26, 27,
       31, 29, 30, 31, 31] := by decide

/-- Vector Q3. -/
theorem test_adsel_Q3 :
    after (.adsel 1 24 true) 2 (started ready)
      (fun t => answers 2 31#32 0x00000402#32 (.adSc .b) 0x3F#32 t && !t.adB.busy) = true := by decide

/-- Vector Q13. -/
theorem test_adsel_Q13 :
    after (.adsel 0 7 false) 2 (started { ready with adA := { ready.adA with ch := 5#5, ien := true, coco := true } })
      (fun t => answers 0 7#32 0#32 (.adSc .a) 0x47#32 t && t.adA.busy) = true := by decide

/-- Vectors Q16, Q18. -/
theorem test_adwait_Q16_Q18 :
    after (.adwait 0) 4 (started { ready with adTmo := 4#32, adA := { ready.adA with busy := true } })
      (fun t => answers 4 0#32 0x00001004#32 .adTmo 4#32 t && t.adA.busy) = true ∧
    after (.adwait 0) 1 (started { ready with adTmo := 1#32, adA := { ready.adA with coco := true } })
      (answers 0 0#32 0#32 .adTmo 1#32) = true := by decide

/-- Vectors Q22, Q24. -/
theorem test_adread_Q22_Q24 :
    after (.adread 0) 1 { ready with adA := { ready.adA with result := 150#16, coco := true } }
      (fun t => answers 0 150#32 0#32 (.adR .a) 150#32 t && t.adA.coco) = true ∧
    after (.adread 9) 1 ready (answers 1 0#32 0x00000201#32 (.adR .a) 0#32) = true := by decide

/-- Vectors Q26, Q27. -/
theorem test_convComplete_Q26_Q27 :
    (convComplete .a 256#16 { ready with adA := { ready.adA with ch := 8#5, busy := true } }).adA.busy = true ∧
    (convComplete .a 255#16 { ready with adA := { ready.adA with ch := 8#5, busy := true } }).adA.result = 255#16 ∧
    (convComplete .a 256#16 { ready with adA := { ready.adA with ch := 1#5, diff := true, busy := true } }).adA.result = 256#16 := by decide

/-! ### Control Loop -/

/-- Vectors L1, L2, L3. -/
theorem test_duty_L1_L2_L3 :
    [0, 50, 99, 100, 101, 102, 125, 149, 150, 151, 199, 200, 201, 255, 65535, 0xFFFFFFFF].map (dutyOf Config.default) =
      [0, 0, 0, 0, 1, 2, 25, 49, 50, 51, 99, 100, 100, 100, 100, 100] ∧
    [60, 61, 62, 100, 125, 189, 190].map (dutyOf { Config.default with tLow := 60, tHigh := 190, legal := by decide }) =
      [0, 0, 1, 30, 50, 99, 100] ∧
    [152, 153].map (dutyOf { Config.default with tLow := 50, tHigh := 255, legal := by decide }) = [49, 50] := by decide

/-- Vector L1: the operand's high bits are not dropped. -/
theorem test_dmap_L1 :
    after (.dmap 0xFFFFFFFF#32) 1 State.reset (answers 0 100#32 0#32 .duty 0#32) = true ∧
    after (.dmap 101#32) 1 State.reset (answers 0 1#32 0#32 .duty 0#32) = true := by decide

/-- Vectors L5, L6. -/
theorem test_pwmupd_L5_L6 :
    after .pwmupd 2 (started { ready with tick := 50#7, duty := 50#7 })
      (fun t => answers 0 0#32 0#32 .pinDo 0#32 t && !t.outLevel) = true ∧
    after .pwmupd 2 (started { ready with tick := 51#7, duty := 50#7, pin := false })
      (fun t => answers 0 0#32 0#32 .pinDo 1#32 t && t.outLevel) = true := by decide

/-- Vector L7. -/
theorem test_pwmupd_L7 :
    after .pwmupd 2 (started { ready with pin := false }) (answers 0 0#32 0#32 .pinDo 1#32) = true := by decide

/-- Vector L12: the code is rewritten, nothing completes, both sticky bits. -/
theorem test_loopit_L12 :
    after .loopit 9 (started { ready with lpCode := 24#8, adTmo := 3#32, duty := 80#7, pin := false })
      (fun t => answers 4 0#32 0x00001404#32 (.adSc .a) 0x1F#32 t && decide (t.duty = 0#7 ∧ t.pin = true)) = true := by decide

/-- Vector L9: `ConvComplete(0, 150)` before the second poll. -/
theorem test_loopit_L9 :
    stepped 10 { placed 0x32000000#32 0#32 0#32 { ready with lpCode := 8#8, tick := 30#7 } with
        turns := List.replicate 4 Turn.background ++ [.convComplete .a 150#16] ++ List.replicate 5 Turn.background }
      (fun t => answers 0 50#32 0#32 (.adSc .a) 0x88#32 t && decide (t.adA.result = 150#16 ∧ t.duty = 50#7 ∧ t.pin = false)) = true := by decide

/-- Program 5: `RUN` renders `x = 255` and goes back to line 0 with no response. -/
theorem test_run_iteration :
    stepped 10 { placed 0x33000000#32 0#32 0#32 { ready with lpCode := 8#8 } with
        turns := List.replicate 4 Turn.background ++ [.convComplete .a 255#16] ++ List.replicate 5 Turn.background }
      (fun t => decide (t.bg = .run .line0 ∧ t.duty = 100#7 ∧ t.pin = false ∧ t.rspData = 0#32)) = true := by decide

/-- Vector I2. -/
theorem test_init_I2 :
    after (.init argsI2) 14 (started ready)
      (fun t => answers 0 0#32 0#32 .adCfg 0x51#32 t && decide (regRead (.adSc .b) t = 0x7A#32 ∧ t.adB.busy = true ∧
        regRead .lpCfg t = 0x0001011A#32 ∧ t.tmr1.load = 1000#32 ∧ regRead (.tCtrl .ch1) t = 4#32 ∧ t.cb = 1#32 ∧
        t.adA = ready.adA ∧ t.tmr0 = ready.tmr0)) = true := by decide

/-- Vectors I3, I6. -/
theorem test_init_I3_I6 :
    after (.init { argsI1 with pTmr := false }) 1 (started ready) (answers 3 0#32 0x00000803#32 .lpCfg 0x1F#32) = true ∧
    after (.init { argsI1 with sSlot := 3, sIen := true }) 13 (started ready)
      (fun t => answers 1 0#32 0x00000201#32 .lpCfg 0x308#32 t &&
        decide (t.adA = ready.adA ∧ t.adB = ready.adB ∧ regRead (.tCtrl .ch0) t = 3#32 ∧ t.cb = 1#32)) = true := by decide

/-! ### Interrupts -/

/-- Vector X1. -/
theorem test_dispatch_X1 :
    stepped 8 (irqState true false true false 1#32 99#7)
      (irqEnd false false 1#32 0#7) = true := by decide

/-- Vector X3. -/
theorem test_dispatch_X3 :
    stepped 8 (irqState true true true false 1#32 5#7)
      (irqEnd false false 1#32 6#7) = true := by decide

/-- Vector X4: no dispatch starts. -/
theorem test_dispatch_X4 :
    stepped 8 (irqState false true true false 1#32 5#7)
      (irqEnd false true 1#32 5#7) = true := by decide

/-- Vector X6: the handle is emitted, and the host's return ends the dispatch. -/
theorem test_dispatch_X6 :
    stepped 7 (irqState true false true false 0xCAFE0000#32 5#7) (fun t => callbackEvent t = some 0xCAFE0000#32) = true ∧
    stepped 9 { irqState true false true false 0xCAFE0000#32 5#7 with
        turns := List.replicate 7 Turn.interrupt ++ [.handlerReturn, .interrupt] }
      (irqEnd false false 0xCAFE0000#32 5#7) = true := by decide

/-- Vector X7. -/
theorem test_dispatch_X7 :
    stepped 9 { irqState false false true false 1#32 5#7 with turns := Turn.spurious :: List.replicate 8 Turn.interrupt }
      (irqEnd false false 1#32 6#7) = true := by decide

/-- 45_cross_family_laws.md R180: in a dispatch, here while an external handler is awaited, the port of an idle block
accepts a command; its first micro-step waits for the return (20_memory.md R55). -/
theorem test_accept_in_dispatch :
    stepped 2 { ready with isr := .waiting 2#32, cb := 2#32, commands := [encode (.tstart 0)] }
      (fun t => decide (latched t = encode (.tstart 0) ∧ t.bg = .exec .first ∧ t.commands = [] ∧
        t.tmr0.en = false ∧ t.isr = .waiting 2#32)) = true := by decide

/-- Vector X12. -/
theorem test_timerExpire_X12 :
    timerExpire .ch0 ready = ready := by decide

/-! ### Inputs that meet the hypotheses of the obligations -/

/-- The background context takes the next turn at position `p`. -/
def bgAt (p : Bg) (s : State) : State := { s with bg := p, turns := [.background] }

/-- The state with one turn to come. -/
def turn (x : Turn) (s : State) : State := { s with turns := [x] }

/-- A slot converting code 8. -/
def converting (s : State) : State := { s with adA := { s.adA with ch := 8#5, busy := true } }

/-- All gates 0 and channel 0 requesting. -/
def ungatedIrq : State := { irqState true false true false 1#32 5#7 with gateTmr := false }

theorem gates_ready (f : Field) (g : Gate) (_ : regGate (fieldReg f) = some g) : ready.gate g = true := by
  cases g <;> rfl

theorem slot_idle (v : ConvSlot) (h : v.busy = false) : SlotInv v := fun hb => by simp [h] at hb

theorem inv_ready : BlockInv ready :=
  ⟨by decide, by decide, slot_idle _ rfl, slot_idle _ rfl, by decide, by decide, trivial, trivial⟩

theorem witness_DecodeEncodeRoundTrip :
    (Instr.init { argsI2 with tIndex := 255, sSlot := 255, sCode := 255 }).wellFormed = true ∧
    (Instr.adsel 255 255 true).wellFormed = true ∧ (Instr.ralwr 0 0xFFFFFFFF#32).wellFormed = true := by decide

theorem witness_DecodedCommandIsReproduced :
    decode ⟨0x01FF0000#32, 5#32, 7#32⟩ = .ok (.ralwr 255 5#32) ∧ usesArg0 (.ralwr 255 5#32) = true ∧
    decode ⟨0x3401F91A#32, 0x151#32, 1000#32⟩ = .ok (.init argsI2) ∧ usesArg1 (.init argsI2) = true := by decide

theorem witness_CommandWordSelectsOneRow :
    0x10FF0300#32 &&& Op.tcfg.mask = Op.tcfg.pattern ∧ 0x34FFFFFF#32 &&& Op.init.mask = Op.init.pattern := by decide

theorem witness_StepRunsDecodedInstruction :
    (∃ s i k, s.isr = .none ∧ nextTurn s = .background ∧ s.bg = .exec k ∧ decode (latched s) = .ok i) ∧
    (∃ s p, s.isr = .none ∧ nextTurn s = .background ∧ s.bg = .run p) :=
  ⟨⟨placed 0x11000000#32 0#32 0#32 ready, .tstart 0, .first, rfl, rfl, rfl, by decide⟩,
    ⟨bgAt (.run .line0) ready, .line0, rfl, rfl, rfl⟩⟩

theorem witness_IdleAcceptsCommand :
    (∃ s : State, ∃ c rest, s.isr = .none ∧ nextTurn s = .background ∧ s.bg = .idle ∧ s.commands = c :: rest) ∧
    (∃ s : State, ∃ c rest, s.isr ≠ .none ∧ nextTurn s = .background ∧ s.bg = .idle ∧ s.commands = c :: rest) ∧
    (∃ s : State, nextTurn s = .background ∧ s.bg = .idle ∧ s.commands = []) :=
  ⟨⟨{ ready with commands := [encode .loopit] }, encode .loopit, [], rfl, by decide, rfl, rfl⟩,
    ⟨turn .background { ready with isr := .line1, commands := [encode .loopit] }, encode .loopit, [],
      by decide, rfl, rfl, rfl⟩,
    ⟨ready, by decide, rfl, rfl⟩⟩

theorem witness_CommandsTakenOnlyWhenIdle : ∃ s t : State, step s = .next t ∧ t.commands ≠ s.commands :=
  ⟨turn .background { ready with commands := [encode .loopit] }, _, rfl, by decide⟩

theorem witness_IllegalCommandChangesOnlyStatus :
    (∃ s : State, s.isr = .none ∧ nextTurn s = .background ∧ s.bg = .exec .first ∧ Op.ofCode (bits s.cw 31 24) = none) ∧
    (∃ s : State, s.isr = .none ∧ nextTurn s = .background ∧ s.bg = .exec .first ∧
      ∃ op, Op.ofCode (bits s.cw 31 24) = some op ∧ s.cw &&& op.mask ≠ op.pattern) ∧
    (∃ s : State, s.isr = .none ∧ nextTurn s = .background ∧ s.bg = .exec .first ∧
      ∃ op, Op.ofCode (bits s.cw 31 24) = some op ∧ op = .init ∧ s.arg0 &&& 0xFFFF0080#32 ≠ 0#32) :=
  ⟨⟨placed 0xFF000000#32 0#32 0#32 ready, rfl, rfl, rfl, by decide⟩,
    ⟨placed 0x31000001#32 0#32 0#32 ready, rfl, rfl, rfl, .pwmupd, by decide, by decide⟩,
    ⟨placed 0x3400E608#32 0x80#32 0#32 ready, rfl, rfl, rfl, .init, by decide, rfl, by decide⟩⟩

theorem witness_StepStopsOnlyOnUngatedAccess :
    (∃ s f, step s = .fault f) ∧ ∃ s, gatesUp s = true :=
  ⟨⟨placed 0x11000000#32 0#32 0#32 State.reset, _, rfl⟩, ready, rfl⟩

theorem witness_UngatedAccessFaults :
    (∃ s : State, s.gateTmr = false ∧ s.gateAdc = false ∧ s.gatePin = false ∧ chanOf 0 = some .ch0 ∧
      s.bg ≠ .exec .tcfgRespond ∧ slotOf 1 = some .b ∧
      fieldOf 0x60 = some .pin ∧ regGate (fieldReg .pin) = some .pin ∧ s.gate .pin = false ∧ fieldAcc .pin ≠ .ro) ∧
    (∃ s : State, s.gateTmr = false ∧ s.isr = .none ∧ nextTurn s = .interrupt ∧ irqLine s = true) ∧
    (∃ s : State, s.gateTmr = false ∧ s.isr = .none ∧ nextTurn s = .spurious ∧ s.cfg.allowSpurious = true) ∧
    (∃ s : State, s.gateTmr = false ∧ nextTurn s = .interrupt ∧ s.isr = .line5 false false ∧
      readsOrWritesFlag s.isr = true) :=
  ⟨⟨State.reset, by decide⟩, ⟨ungatedIrq, by decide⟩, ⟨turn .spurious State.reset, by decide⟩,
    ⟨{ State.reset with isr := .line5 false false }, by decide⟩⟩

theorem witness_UngatedAccessFaults_long :
    (loopGate (.select 1#8 8#8 false) = some .adc ∧ loopGate (.drive .ok) = some .pin ∧
      State.reset.gate .adc = false ∧ State.reset.gate .pin = false ∧
      (bgAt (.run (.drive .ok)) State.reset).bg = .run (.drive .ok)) ∧
    (initGate argsI1 .line5 = some .adc ∧ initGate argsI1 (.runState .ok .ok) = some .tmr ∧
      State.reset.gate .tmr = false ∧ (bgAt (.exec (.init .line5)) State.reset).bg = .exec (.init .line5)) :=
  ⟨⟨rfl, rfl, rfl, rfl, rfl⟩, rfl, rfl, rfl, rfl⟩

theorem witness_StepKeepsInvariant : ∃ s t, BlockInv s ∧ step s = .next t :=
  ⟨ready, _, inv_ready, rfl⟩

theorem witness_PowerCycleResetsEveryField : nextTurn (turn .powerCycle (converting ready)) = .powerCycle := rfl

theorem witness_FieldWriteTouchesOnlyItsBits :
    fieldAcc .adMode = .rw ∧ Reg.adTmo ≠ fieldReg .adMode := by decide

theorem witness_RalwrStoresLegalValue :
    (∃ (s : State), fieldOf 0x52 = some .duty ∧ fieldAcc .duty = .rw ∧ fieldLegal .duty 100#32 = true ∧
      ∀ g, regGate (fieldReg .duty) = some g → s.gate g = true) ∧
    (∃ (s : State), fieldOf 0x30 = some (.adCh .b) ∧ fieldAcc (.adCh .b) = .rw ∧ fieldLegal (.adCh .b) 31#32 = true ∧
      ∀ g, regGate (fieldReg (.adCh .b)) = some g → s.gate g = true) :=
  ⟨⟨ready, rfl, rfl, by decide, gates_ready _⟩, ⟨ready, rfl, rfl, by decide, gates_ready _⟩⟩

theorem witness_RalwrClearsFlagBits : fieldOf 0x04 = some (.tIf .ch0) ∧ ready.gateTmr = true := by decide

theorem witness_RalRoundTrip : ∃ (s : State), fieldOf 0x10 = some (.tLoad .ch1) ∧ fieldAcc (.tLoad .ch1) = .rw ∧
    fieldLegal (.tLoad .ch1) 0xDEADBEEF#32 = true ∧ ∀ g, regGate (fieldReg (.tLoad .ch1)) = some g → s.gate g = true :=
  ⟨ready, rfl, rfl, by decide, gates_ready _⟩

theorem witness_RalwrRejectionWritesNothing :
    fieldOf 0x05 = none ∧ (fieldOf 0x51 = some .tick ∧ fieldAcc .tick = .ro) ∧
    ∃ s : State, fieldOf 0x52 = some .duty ∧ fieldAcc .duty ≠ .ro ∧
      (∀ g, regGate (fieldReg .duty) = some g → s.gate g = true) ∧ fieldLegal .duty 101#32 = false :=
  ⟨rfl, ⟨rfl, rfl⟩, ready, rfl, by decide, gates_ready _, by decide⟩

theorem witness_RalrdReturnsFieldValue :
    fieldOf 0x7F = none ∧
    (∃ s : State, fieldOf 0x24 = some (.adR .a) ∧ ∀ g, regGate (fieldReg (.adR .a)) = some g → s.gate g = true) ∧
    (∃ s : State, fieldOf 0x24 = some (.adR .a) ∧ regGate (fieldReg (.adR .a)) = some .adc ∧ s.gate .adc = false) :=
  ⟨rfl, ⟨ready, rfl, gates_ready _⟩, ⟨State.reset, rfl, rfl, rfl⟩⟩

theorem witness_TcfgWritesLoadChainArm :
    chanOf 2 = none ∧
    (chanOf 1 = some .ch1 ∧ State.reset.gateTmr = false ∧ State.reset.bg ≠ .exec .tcfgRespond) ∧
    (∃ s : State, chanOf 0 = some .ch0 ∧ s.gateTmr = true ∧ s.bg = .exec .first ∧ (s.timer .ch0).flag = true ∧ s.isr = .none) :=
  ⟨rfl, by decide, started (irqState true false false false 1#32 5#7), rfl, rfl, rfl, rfl, rfl⟩

theorem witness_TstartTstopSetRunState :
    chanOf 255 = none ∧ (chanOf 0 = some .ch0 ∧ State.reset.gateTmr = false) ∧
    (chanOf 1 = some .ch1 ∧ ready.gateTmr = true) := by decide

theorem witness_InvalidTimerIndexLeavesImage :
    (2 ≤ 2 ∧ ∃ load chained ie, Instr.tcfg 2 9#32 true true = .tcfg 2 load chained ie) ∧ 2 ≤ 255 :=
  ⟨⟨by decide, _, _, _, rfl⟩, by decide⟩

theorem witness_AdselWritesModeThenCode :
    slotOf 2 = none ∧ (slotOf 1 = some .b ∧ State.reset.gateAdc = false) ∧
    (slotOf 0 = some .a ∧ (started ready).gateAdc = true ∧ (started ready).bg = .exec .first) := by decide

theorem witness_InvalidSlotLeavesRegisters :
    (2 ≤ 2 ∧ ∃ code diff, Instr.adsel 2 8 false = .adsel 2 code diff) ∧ 2 ≤ 255 := ⟨⟨by decide, _, _, rfl⟩, by decide⟩

theorem witness_AdwaitEndsWhenFlagReadsOne :
    ∃ s : State, slotOf 0 = some .a ∧ s.gateAdc = true ∧ (s.conv .a).coco = true :=
  ⟨{ ready with adA := { ready.adA with coco := true } }, by decide⟩

theorem witness_AdwaitTimesOutAfterBound : ∃ s : State, slotOf 0 = some .a ∧ s.gateAdc = true ∧ (s.conv .a).coco = false ∧
    s.bg = .exec .first ∧ s.adTmo ≠ 0#32 ∧ ∃ n, 0 < n ∧ n < s.adTmo.toNat :=
  ⟨started { ready with adTmo := 2#32 }, rfl, rfl, rfl, rfl, by decide, 1, by decide, by decide⟩

theorem witness_AdwaitUnboundedPollsForever : ∃ s : State, slotOf 1 = some .b ∧ s.gateAdc = true ∧ (s.conv .b).coco = false ∧
    s.bg = .exec .first ∧ s.adTmo = 0#32 := ⟨started { ready with adTmo := 0#32 }, by decide⟩

theorem witness_AdreadReturnsResult :
    (∃ s : State, slotOf 0 = some .a ∧ s.gateAdc = true ∧ (s.conv .a).busy = false) ∧
    (∃ s : State, slotOf 0 = some .a ∧ s.gateAdc = true ∧ (s.conv .a).busy = true) :=
  ⟨⟨ready, by decide⟩, ⟨converting ready, by decide⟩⟩

/-- Slot 0 with its completion flag set. -/
def completed (s : State) : State := { s with adA := { s.adA with ch := 8#5, coco := true } }

theorem witness_CompletionFlagHasThreeWriters :
    (∃ s t : State, step s = .next t ∧ (s.conv .a).coco = false ∧ (t.conv .a).coco = true) ∧
    (∃ s t : State, step s = .next t ∧ nextTurn s = .powerCycle ∧ (s.conv .a).coco = true ∧ (t.conv .a).coco = false) ∧
    (∃ s t : State, step s = .next t ∧ s.bg = .exec .adselCode ∧ (s.conv .a).coco = true ∧ (t.conv .a).coco = false) ∧
    (∃ s t : State, step s = .next t ∧ s.bg = .run (.read .a .ok) ∧ s.cfg.cocoClearOnRead = true ∧
      (s.conv .a).coco = true ∧ (t.conv .a).coco = false) :=
  ⟨⟨turn (.convComplete .a 255#16) (converting ready), _, rfl, rfl, rfl⟩,
    ⟨turn .powerCycle (completed ready), _, rfl, rfl, rfl, rfl⟩,
    ⟨{ placed 0x20000009#32 0#32 0#32 (completed ready) with bg := .exec .adselCode }, _, rfl, rfl, rfl, rfl⟩,
    ⟨bgAt (.run (.read .a .ok)) { completed ready with cfg := { Config.default with cocoClearOnRead := true } }, _,
      rfl, rfl, rfl, rfl, rfl⟩⟩

theorem witness_ConvCompleteWritesResult :
    (∃ s : State, nextTurn s = .convComplete .a 255#16 ∧ s.gateAdc = true ∧ (s.conv .a).busy = true ∧
      (255#16).toNat < 2 ^ resBits s.cfg s.adMode) ∧
    (∃ s : State, nextTurn s = .convComplete .a 0xFFFF#16 ∧ s.gateAdc = true ∧ (s.conv .a).busy = true ∧
      (s.conv .a).diff = true) ∧
    (∃ s : State, nextTurn s = .convComplete .a 0xFFFF#16 ∧ s.gateAdc = true ∧ (s.conv .a).busy = true ∧
      (s.conv .a).diff = false ∧ (s.conv .a).ch = 24#5) ∧
    (∃ s : State, nextTurn s = .convComplete .a 255#16 ∧ (s.conv .a).busy = false) ∧
    (∃ s : State, nextTurn s = .convComplete .a 255#16 ∧ s.gateAdc = false) ∧
    (∃ s : State, nextTurn s = .convComplete .a 256#16 ∧ (s.conv .a).diff = false ∧ (s.conv .a).ch ≠ 24#5 ∧
      (s.conv .a).ch ≠ 25#5 ∧ (s.conv .a).ch ≠ 28#5 ∧ 2 ^ resBits s.cfg s.adMode ≤ (256#16).toNat) :=
  ⟨⟨turn (.convComplete .a 255#16) (converting ready), by decide⟩,
    ⟨turn (.convComplete .a 0xFFFF#16) { ready with adA := { ready.adA with ch := 1#5, diff := true, busy := true } }, by decide⟩,
    ⟨turn (.convComplete .a 0xFFFF#16) { ready with adA := { ready.adA with ch := 24#5, busy := true } }, by decide⟩,
    ⟨turn (.convComplete .a 255#16) ready, by decide⟩,
    ⟨turn (.convComplete .a 255#16) (converting State.reset), by decide⟩,
    ⟨turn (.convComplete .a 256#16) (converting ready), by decide⟩⟩

theorem witness_DutyIsMonotoneAndClamped :
    (100 ≤ 101) ∧ (Config.default.tLow < 101 ∧ 101 < Config.default.tHigh) ∧
    (Config.default.tLow < 199 ∧ 199 < Config.default.tHigh) := by decide

theorem witness_ActiveTicksPerCycle : 0 ≤ 100 ∧ 1 ≤ 100 ∧ 99 ≤ 100 ∧ 100 ≤ 100 := by decide

theorem witness_PwmupdDrivesComparatorLevel :
    State.reset.gatePin = false ∧ (started ready).gatePin = true ∧ (started ready).bg = .exec .first := by decide

/-- A `LOOPIT` on slot 0, code 8, accepted, with `n` polls before its conversion completes. -/
def loopitStart (tmo : Word) (n : Nat) : State :=
  { placed 0x32000000#32 0#32 0#32 { ready with lpCode := 8#8, adTmo := tmo } with
    turns := List.replicate (3 + n) Turn.background ++
      Turn.convComplete .a 150#16 :: (List.replicate 5 Turn.background ++ []) }

/-- Before the first poll, before the last poll of a bounded wait, and in an unbounded wait. -/
theorem witness_LoopitRendersSample : ∀ p ∈ [(1#32, 0), (3#32, 2), (0#32, 4)], ∃ s : State,
    s.isr = .none ∧ s.bg = .exec .first ∧ decode (latched s) = .ok .loopit ∧ s.gateAdc = true ∧ s.gatePin = true ∧
    slotOf s.lpSlot.toNat = some .a ∧ resolve s.cfg s.lpCode.toNat s.lpDiff = s.lpCode.toNat ∧ s.lpCode ≠ 31#8 ∧
    (s.lpDiff = true ∨ (150#16).toNat < 2 ^ resBits s.cfg s.adMode) ∧
    (s.adTmo = 0#32 ∨ p.2 < s.adTmo.toNat) ∧
    s.turns = List.replicate (3 + p.2) Turn.background ++
      Turn.convComplete .a 150#16 :: (List.replicate 5 Turn.background ++ []) := fun p hp =>
  ⟨loopitStart p.1 p.2, rfl, rfl, by decide +revert, rfl, rfl, rfl, rfl, by decide +revert, .inr (by decide +revert),
    by revert p; decide, rfl⟩

theorem witness_LoopitTimeoutForcesOff : ∃ s : State, s.bg = .exec .first ∧ s.gateAdc = true ∧ s.gatePin = true ∧
    slotOf s.lpSlot.toNat = some .b ∧ s.adTmo ≠ 0#32 :=
  ⟨started { ready with lpSlot := 1#8, adTmo := 1#32 }, by decide⟩

theorem witness_LoopitInvalidSlotForcesOff :
    ∃ s : State, s.bg = .exec .first ∧ s.gatePin = true ∧ slotOf s.lpSlot.toNat = none :=
  ⟨started { ready with lpSlot := 2#8 }, by decide⟩

/-- A `LOOPIT` (or `RUN`) that has timed out and drives the pin next. -/
def timedOut (cw : Word) (p : Bg) : State := { ready with cw := cw, bg := p }

theorem witness_FailedIterationLeavesPinInactive :
    (∃ s t, BlockInv s ∧ Status.conversionTimeout ≠ .ok ∧ s.bg = .exec (.loop (.drive .conversionTimeout)) ∧
      exec .loopit s = .next t) ∧
    (∃ s t, BlockInv s ∧ Status.invalidChannelIndex ≠ .ok ∧ s.bg = .run (.drive .invalidChannelIndex) ∧
      exec .run s = .next t) :=
  ⟨⟨timedOut 0x32000000#32 (.exec (.loop (.drive .conversionTimeout))), _,
      ⟨by decide, by decide, slot_idle _ rfl, slot_idle _ rfl, by decide, by decide,
        .inr ⟨.loopit, by decide, rfl, by decide, .inr (.inr rfl), fun _ => ⟨rfl, rfl⟩⟩, trivial⟩,
      by decide, rfl, rfl⟩,
    ⟨timedOut 0x33000000#32 (.run (.drive .invalidChannelIndex)), _,
      ⟨by decide, by decide, slot_idle _ rfl, slot_idle _ rfl, by decide, by decide,
        ⟨by decide, .inr (.inl rfl), fun _ => ⟨rfl, rfl⟩⟩, trivial⟩,
      by decide, rfl, rfl⟩⟩

theorem witness_IterationReadsFinishedResult :
    (∃ s, BlockInv s ∧ s.gateAdc = true ∧ s.bg = .exec (.loop (.read .a .ok))) ∧
    (∃ s, BlockInv s ∧ s.gateAdc = true ∧ s.bg = .run (.read .a .ok)) :=
  ⟨⟨{ timedOut 0x32000000#32 (.exec (.loop (.read .a .ok))) with adA := { ready.adA with ch := 8#5, coco := true } },
      ⟨by decide, by decide, slot_idle _ rfl, slot_idle _ rfl, by decide, by decide,
        .inr ⟨.loopit, by decide, rfl, by decide, rfl, rfl⟩, trivial⟩, rfl, rfl⟩,
    ⟨{ timedOut 0x33000000#32 (.run (.read .a .ok)) with adA := { ready.adA with ch := 8#5, coco := true } },
      ⟨by decide, by decide, slot_idle _ rfl, slot_idle _ rfl, by decide, by decide,
        ⟨by decide, rfl, rfl⟩, trivial⟩, rfl, rfl⟩⟩

theorem witness_RunEntersAndRepeats :
    (started ready).bg = .exec .first ∧
    ((bgAt (.run (.drive .ok)) ready).bg = .run (.drive .ok) ∧ (bgAt (.run (.drive .ok)) ready).gatePin = true) :=
  ⟨rfl, rfl, rfl⟩

theorem witness_RunIterationIsLoopit :
    (∃ (p : LoopPos) (s t : State), exec .loopit { s with bg := .exec (.loop p) } = .next t) ∧
    (∃ (p : LoopPos) (s : State) (f : Fault), exec .loopit { s with bg := .exec (.loop p) } = .fault f) :=
  ⟨⟨.line0, ready, _, rfl⟩, ⟨.drive .ok, State.reset, _, rfl⟩⟩

theorem witness_RunNeverLeaves : ∃ s t p, step s = .next t ∧ s.bg = .run p ∧ nextTurn s ≠ .powerCycle :=
  ⟨bgAt (.run .line0) ready, _, .line0, rfl, rfl, by decide⟩

theorem witness_InitRunsEveryStage :
    ((started ready).bg = .exec .first ∧ allPresent argsI1 = true ∧ (started ready).gateAdc = true ∧
      (chanOf argsI1.tIndex ≠ none → (started ready).gateTmr = true)) ∧
    (allPresent { argsI1 with tIndex := 2, sSlot := 3 } = true ∧ chanOf 2 = none ∧ slotOf 3 = none) := by decide

theorem witness_LongCommandsEndInResponse :
    (bgAt (.exec (.loop (.drive .conversionTimeout))) ready).bg = .exec (.loop (.drive .conversionTimeout)) ∧
    (bgAt (.exec (.loop (.drive .conversionTimeout))) ready).gatePin = true ∧
    (bgAt (.exec (.init (.callback .ok .invalidChannelIndex))) ready).bg =
      .exec (.init (.callback .ok .invalidChannelIndex)) := ⟨rfl, rfl, rfl⟩

theorem witness_InitNullWritesNothing :
    (started ready).bg = .exec .first ∧ { argsI1 with pClk := false }.pClk = false ∧
    { argsI1 with pSlot := false }.pSlot = false ∧ { argsI1 with pTmr := false }.pTmr = false := by decide

theorem witness_InterruptEntryTouchesNothing :
    (∃ s : State, nextTurn s = .interrupt ∧ s.isr = .none ∧ s.gateTmr = true ∧ s.tmr0.flag = true ∧ s.tmr0.ie = true) ∧
    (∃ s : State, nextTurn s = .interrupt ∧ s.isr = .none ∧ s.gateTmr = true ∧ s.tmr1.flag = true ∧ s.tmr1.ie = true) ∧
    (∃ s : State, nextTurn s = .interrupt ∧ s.isr = .none ∧ s.gateTmr = true ∧
      ¬((s.tmr0.flag = true ∧ s.tmr0.ie = true) ∨ (s.tmr1.flag = true ∧ s.tmr1.ie = true))) ∧
    (∃ s t : State, step s = .next t ∧ s.isr = .none ∧ t.isr ≠ .none ∧ nextTurn s = .interrupt) ∧
    (∃ s t : State, step s = .next t ∧ s.isr = .none ∧ t.isr ≠ .none ∧ nextTurn s = .spurious) :=
  ⟨⟨irqState true false true false 1#32 5#7, by decide⟩, ⟨irqState false true false true 1#32 5#7, by decide⟩,
    ⟨turn .interrupt (irqState false true true false 1#32 5#7), by decide⟩,
    ⟨irqState true false true false 1#32 5#7, _, rfl, rfl, by decide, by decide⟩,
    ⟨turn .spurious ready, _, rfl, rfl, by decide, rfl⟩⟩

theorem witness_TimerExpireSetsFlag :
    (∃ s : State, nextTurn s = .timerExpire .ch0 ∧ s.gateTmr = true ∧ (s.timer .ch0).en = true) ∧
    (∃ s : State, nextTurn s = .timerExpire .ch1 ∧ (s.timer .ch1).en = false) ∧
    (∃ s : State, nextTurn s = .timerExpire .ch1 ∧ s.gateTmr = false) :=
  ⟨⟨turn (.timerExpire .ch0) { ready with tmr0 := { ready.tmr0 with en := true } }, by decide⟩,
    ⟨turn (.timerExpire .ch1) ready, by decide⟩, ⟨turn (.timerExpire .ch1) State.reset, by decide⟩⟩

theorem witness_DispatchClearsFlagsAndTicksOnce :
    (∃ s : State, s.isr = .none ∧ s.gateTmr = true ∧ irqLine s = true ∧ s.cb = s.cfg.cbTick ∧ s.tick.toNat < 100 ∧
      s.turns = List.replicate 8 Turn.interrupt ++ []) ∧
    (∃ s : State, s.isr = .none ∧ s.gateTmr = true ∧ irqLine s = true ∧ s.cb = 0#32 ∧ s.tick.toNat < 100 ∧
      s.turns = List.replicate 8 Turn.interrupt ++ []) :=
  ⟨⟨{ irqState true true true true 1#32 99#7 with turns := List.replicate 8 Turn.interrupt },
      rfl, rfl, rfl, rfl, by decide, rfl⟩,
    ⟨{ irqState true false true false 0#32 5#7 with turns := List.replicate 8 Turn.interrupt },
      rfl, rfl, rfl, rfl, by decide, rfl⟩⟩

/-- Both channels running, no flag set, the tick handler registered. -/
def bothRunning : State :=
  { ready with cb := 1#32, tmr0 := { ready.tmr0 with en := true }, tmr1 := { ready.tmr1 with en := true } }

theorem witness_SpuriousFiringCountsOneTick :
    (∃ s : State, s.isr = .none ∧ s.tick.toNat < 100 ∧ s.cfg.allowSpurious = true ∧ s.gateTmr = true ∧
      s.tmr0.flag = false ∧ s.tmr1.flag = false ∧ s.cb = s.cfg.cbTick ∧
      s.turns = Turn.spurious :: List.replicate 8 Turn.interrupt ++ []) ∧
    (∃ s : State, s.isr = .none ∧ s.tick.toNat < 100 ∧ s.cfg.allowSpurious = true ∧ s.gateTmr = true ∧
      s.tmr0.flag = false ∧ s.tmr1.flag = false ∧ s.tmr0.en = true ∧ s.tmr1.en = true ∧ s.cb = s.cfg.cbTick ∧
      s.turns = ([.spurious, .interrupt, .interrupt, .timerExpire .ch0, .timerExpire .ch1, .interrupt, .interrupt,
        .interrupt, .interrupt, .interrupt, .interrupt] : List Turn) ++ []) ∧
    (∃ s : State, s.isr = .none ∧ s.tick.toNat < 100 ∧ s.cfg.allowSpurious = false ∧ s.turns = .spurious :: []) :=
  ⟨⟨{ irqState false false true false 1#32 99#7 with turns := Turn.spurious :: List.replicate 8 Turn.interrupt },
      rfl, by decide, rfl, rfl, rfl, rfl, rfl, rfl⟩,
    ⟨{ bothRunning with
        turns := [.spurious, .interrupt, .interrupt, .timerExpire .ch0, .timerExpire .ch1, .interrupt, .interrupt,
          .interrupt, .interrupt, .interrupt, .interrupt] },
      rfl, by decide, rfl, rfl, rfl, rfl, rfl, rfl, rfl, rfl⟩,
    ⟨turn .spurious { ready with cfg := { Config.default with allowSpurious := false } },
      rfl, by decide, rfl, rfl⟩⟩

theorem witness_ExternalHandlerIsAwaited :
    (∃ s : State, s.isr = .line6 ∧ nextTurn s = .interrupt ∧ s.cb ≠ 0#32 ∧ s.cb ≠ s.cfg.cbTick) ∧
    (∃ s : State, ∃ h, s.isr = .waiting h ∧ nextTurn s = .interrupt) ∧
    (∃ s : State, ∃ h, s.isr = .waiting h ∧ nextTurn s = .background ∧ s.bg ≠ .idle) ∧
    (∃ s : State, ∃ h, s.isr = .waiting h ∧ nextTurn s = .spurious) ∧
    (∃ s : State, ∃ h, s.isr = .waiting h ∧ nextTurn s = .handlerReturn) ∧
    (∃ s : State, s.isr = .line7 ∧ nextTurn s = .interrupt) :=
  ⟨⟨{ ready with isr := .line6, cb := 2#32 }, by decide⟩,
    ⟨{ turn .interrupt ready with isr := .waiting 2#32 }, 2#32, rfl, rfl⟩,
    ⟨{ turn .background (started ready) with isr := .waiting 2#32 }, 2#32, rfl, rfl, by decide⟩,
    ⟨{ turn .spurious ready with isr := .waiting 2#32 }, 2#32, rfl, rfl⟩,
    ⟨{ turn .handlerReturn ready with isr := .waiting 2#32 }, 2#32, rfl, rfl⟩,
    ⟨{ ready with isr := .line7 }, by decide⟩⟩

theorem witness_TickIsCyclic : ∃ s : State, s.isr = .none ∧ s.gateTmr = true ∧ (s.timer .ch1).en = true ∧
    (s.timer .ch1).ie = true ∧ s.tmr0.flag = false ∧ s.tmr1.flag = false ∧ s.cb = s.cfg.cbTick ∧ s.tick.toNat < 100 ∧
    s.turns = (List.replicate 2 (Turn.timerExpire .ch1 :: List.replicate 8 Turn.interrupt)).flatten ++ [] :=
  ⟨{ ready with
      cb := 1#32, tick := 99#7, tmr1 := { ready.tmr1 with en := true, ie := true }
      turns := (List.replicate 2 (Turn.timerExpire .ch1 :: List.replicate 8 Turn.interrupt)).flatten },
    rfl, rfl, rfl, rfl, rfl, rfl, rfl, by decide, rfl⟩

theorem witness_TickWrittenOnlyByTickHandler : ∃ s t : State, step s = .next t ∧ t.tick ≠ s.tick ∧ s.tick.toNat < 100 :=
  ⟨{ irqState false false true false 1#32 99#7 with isr := .line6 }, _, rfl, by decide, by decide⟩

theorem witness_OutputAndGatesHaveSoleWriters :
    (∃ s t : State, step s = .next t ∧ t.duty ≠ s.duty) ∧ (∃ s t : State, step s = .next t ∧ t.outLevel ≠ s.outLevel) ∧
    (∃ s t : State, step s = .next t ∧ t.pin ≠ s.pin) ∧ (∃ s t : State, step s = .next t ∧ t.gate .adc ≠ s.gate .adc) ∧
    (∃ s : State, nextTurn s = .setGate .pin true) ∧ (∃ s t : State, step s = .next t ∧ pinOut t ≠ pinOut s) ∧
    (∃ s t : State, step s = .next t ∧ adcIrqOut s = false ∧ adcIrqOut t = true ∧ nextTurn s = .convComplete .a 255#16) ∧
    (∃ s t : State, step s = .next t ∧ adcIrqOut s = false ∧ adcIrqOut t = true ∧ nextTurn s = .background) :=
  ⟨⟨bgAt (.run (.duty .ok .ok 255#32)) ready, _, rfl, by decide⟩,
    ⟨bgAt (.run (.compare .ok)) { ready with duty := 50#7 }, _, rfl, by decide⟩,
    ⟨bgAt (.run (.drive .ok)) { ready with outLevel := false }, _, rfl, by decide⟩,
    ⟨turn (.setGate .adc true) State.reset, _, rfl, by decide⟩, ⟨turn (.setGate .pin true) State.reset, rfl⟩,
    ⟨bgAt (.run (.drive .ok)) { ready with outLevel := false }, _, rfl, by decide⟩,
    ⟨turn (.convComplete .a 255#16) { ready with adA := { ready.adA with ch := 8#5, busy := true, ien := true } }, _,
      rfl, by decide, by decide, rfl⟩,
    ⟨placed 0x01220000#32 1#32 0#32 { ready with adA := { ready.adA with coco := true } }, _,
      rfl, by decide, by decide, rfl⟩⟩

theorem witness_InterruptContextFrame : ∃ s t : State, nextTurn s = .interrupt ∧ step s = .next t :=
  ⟨irqState true false true false 1#32 5#7, _, by decide, rfl⟩

theorem witness_DispatchExcludesBackgroundAndNesting :
    (∃ s : State, s.isr ≠ .none ∧ nextTurn s = .background ∧ s.bg ≠ .idle) ∧
    (∃ s : State, s.isr ≠ .none ∧ nextTurn s = .background ∧ s.bg = .idle) ∧
    (∃ s : State, s.isr ≠ .none ∧ nextTurn s = .spurious) ∧
    (∃ s t : State, s.isr ≠ .none ∧ step s = .next t) :=
  ⟨⟨{ turn .background (started ready) with isr := .line1 }, by decide⟩,
    ⟨{ turn .background ready with isr := .line1, commands := [encode .loopit] }, by decide⟩,
    ⟨{ turn .spurious ready with isr := .line7 }, by decide⟩,
    ⟨{ turn .interrupt ready with isr := .line7 }, _, by decide, rfl⟩⟩

/-- The schedule of `LateExpiryIsLostKeptOrMerged`: the entry `e`, `n` micro-steps of `k`, the expiry, the rest. -/
def lateSchedule (e : Turn) (c : Chan) (n k : Nat) : List Turn :=
  e :: (List.replicate n Turn.interrupt ++ Turn.timerExpire c :: (List.replicate (k - n) Turn.interrupt ++ []))

theorem witness_LateExpiryIsLostKeptOrMerged :
    (∃ s : State, s.isr = .none ∧ s.gateTmr = true ∧ (s.timer .ch0).en = true ∧ s.cb = s.cfg.cbTick ∧
      s.tick.toNat < 100 ∧ flagReadAt .ch0 ≤ 4 ∧ s.cfg.allowSpurious = true ∧ s.tmr0.flag = false ∧
      s.tmr1.flag = false ∧ 4 < flagDefendAt .ch0 ∧ s.turns = lateSchedule .spurious .ch0 4 8) ∧
    (∃ s : State, s.isr = .none ∧ s.gateTmr = true ∧ (s.timer .ch1).en = true ∧ s.cb = s.cfg.cbTick ∧
      s.tick.toNat < 100 ∧ flagReadAt .ch1 ≤ 2 ∧ irqLine s = true ∧ (s.timer .ch1).flag = false ∧ 2 ≤ 7 ∧
      s.turns = lateSchedule .interrupt .ch1 2 7) ∧
    (∃ s : State, s.isr = .none ∧ s.gateTmr = true ∧ (s.timer .ch0).en = true ∧ s.cb = s.cfg.cbTick ∧
      s.tick.toNat < 100 ∧ flagReadAt .ch0 ≤ 7 ∧ irqLine s = true ∧ (s.timer .ch0).flag = true ∧ 7 ≤ 7 ∧
      s.turns = lateSchedule .interrupt .ch0 7 7) ∧
    (∃ s : State, s.isr = .none ∧ s.gateTmr = true ∧ (s.timer .ch0).en = true ∧ s.cb = s.cfg.cbTick ∧
      s.tick.toNat < 100 ∧ flagReadAt .ch0 ≤ 2 ∧ irqLine s = true ∧ (s.timer .ch0).flag = true ∧ 2 < flagClearAt .ch0 ∧
      s.turns = lateSchedule .interrupt .ch0 2 7) :=
  ⟨⟨{ bothRunning with turns := lateSchedule .spurious .ch0 4 8 },
      rfl, rfl, rfl, rfl, by decide, by decide, rfl, rfl, rfl, by decide, rfl⟩,
    ⟨{ bothRunning with tmr0 := ⟨0#32, true, true, false, true⟩, turns := lateSchedule .interrupt .ch1 2 7 },
      rfl, rfl, rfl, rfl, by decide, by decide, rfl, rfl, by decide, rfl⟩,
    ⟨{ bothRunning with tmr0 := ⟨0#32, true, true, false, true⟩, turns := lateSchedule .interrupt .ch0 7 7 },
      rfl, rfl, rfl, rfl, by decide, by decide, rfl, rfl, by decide, rfl⟩,
    ⟨{ bothRunning with tmr0 := ⟨0#32, true, true, false, true⟩, turns := lateSchedule .interrupt .ch0 2 7 },
      rfl, rfl, rfl, rfl, by decide, by decide, rfl, rfl, by decide, rfl⟩⟩

theorem witness_StickyErrorClearedOnlyByWrite :
    ∃ s t : State, step s = .next t ∧ s.stErr.getLsbD 4 = true ∧ t.stErr.getLsbD 4 = false :=
  ⟨placed 0x01810000#32 0x10#32 0#32 { ready with stErr := 0b0010100#7 }, _, rfl, by decide, by decide⟩

theorem witness_ResponseRecordsStatus :
    (∃ s t : State, step s = .next t ∧ responds s t = true ∧ t.rspStatus ≠ 0#4) ∧
    (∃ s t : State, step s = .next t ∧ responds s t = true ∧ t.rspStatus = 0#4) :=
  ⟨⟨placed 0x01520000#32 101#32 0#32 ready, _, rfl, by decide, by decide⟩,
    ⟨placed 0x01520000#32 100#32 0#32 ready, _, rfl, by decide, by decide⟩⟩

end Sys2Proof.Tests
end

section
/-! PROOFS. The Register Access Layer (40_ral.md): which bits a `FieldWrite` replaces (R84), what a rejected `RALWR`
leaves unchanged (R82, R85), what a `RALRD` returns (R83). -/

namespace Sys2Proof.Machine

open Sys2Proof

/-! ### A register's bits, inside a field and outside it -/

theorem getLsbD_slice (f : Field) (w : Word) {j : Nat} (hj : j < fieldWidth f) :
    (slice f w).getLsbD j = w.getLsbD (fieldOff f + j) := by
  have hword : j < 32 := by have := field_fits f; omega
  simp only [slice, BitVec.getLsbD_and, BitVec.getLsbD_ushiftRight, maskOf_getLsbD, hj, hword, decide_true,
    Bool.and_true]

/-- Words with the same slice agree on every bit of the field's place. -/
theorem getLsbD_eq_of_slice_eq {f : Field} {w x : Word} (h : slice f w = slice f x) {i : Nat}
    (hin : fieldOff f ≤ i ∧ i < fieldOff f + fieldWidth f) : w.getLsbD i = x.getLsbD i := by
  obtain ⟨j, rfl⟩ := Nat.exists_eq_add_of_le hin.1
  have hj : j < fieldWidth f := by omega
  rw [← getLsbD_slice f w hj, h, getLsbD_slice f x hj]

/-- Storing a field leaves every bit outside the field's place alone, in every register. -/
theorem getLsbD_regRead_putField_outside (r : Reg) (f : Field) (v : Word) (s : State) {i : Nat} (hi : i < 32)
    (hout : ¬ (fieldOff f ≤ i ∧ i < fieldOff f + fieldWidth f)) :
    (regRead r (putField f v s)).getLsbD i = (regRead r s).getLsbD i := by
  rw [getLsbD_regRead _ _ _ hi, getLsbD_regRead _ _ _ hi]
  congr 1
  funext g
  by_cases hgf : g = f
  · subst hgf
    by_cases hoff : fieldOff g ≤ i
    · have hhigh : fieldWidth g ≤ i - fieldOff g := by omega
      rw [getLsbD_getField_high _ _ _ hhigh, getLsbD_getField_high _ _ _ hhigh]
    · simp [hoff]
  · rw [getField_putField_of_ne hgf]

theorem getLsbD_mergeField_outside (f : Field) (v old : Word) {i : Nat} (hi : i < 32)
    (hout : ¬ (fieldOff f ≤ i ∧ i < fieldOff f + fieldWidth f)) :
    (mergeField f v old).getLsbD i = old.getLsbD i := by
  simp only [mergeField, BitVec.getLsbD_and, BitVec.getLsbD_or, BitVec.getLsbD_not, BitVec.getLsbD_shiftLeft,
    maskOf_getLsbD, hi]
  by_cases hbelow : i < fieldOff f
  · simp [hbelow]
  · have habove : ¬ i - fieldOff f < fieldWidth f := by omega
    simp [habove]

/-- The register of a stored field reads as the merged word (00_scope.md R11). -/
theorem regRead_putField_self (f : Field) (v : Word) (s : State) :
    regRead (fieldReg f) (putField f v s) = mergeField f v (regRead (fieldReg f) s) := by
  apply BitVec.eq_of_getLsbD_eq
  intro i hi
  by_cases hin : fieldOff f ≤ i ∧ i < fieldOff f + fieldWidth f
  · refine getLsbD_eq_of_slice_eq ?_ hin
    rw [slice_regRead, getField_putField_self, slice_mergeField_self]
  · rw [getLsbD_regRead_putField_outside _ _ _ _ hi hin, getLsbD_mergeField_outside _ _ _ hi hin]

theorem regRead_putField_of_ne {f : Field} {r : Reg} (h : r ≠ fieldReg f) (v : Word) (s : State) :
    regRead r (putField f v s) = regRead r s := by
  refine regRead_congr fun g hg => getField_putField_of_ne ?_ v s
  rintro rfl
  exact h (fieldReg_of_mem hg).symm

theorem mergeField_zero (f : Field) (old : Word) :
    mergeField f 0#32 old = old &&& ~~~(maskOf (fieldWidth f) <<< fieldOff f) := by
  simp [mergeField]

/-- Settles O14: a `FieldWrite` stores its field alone (`fieldWrite_eq`), and the register then reads, bit by bit, as
the merged word. -/
theorem fieldWriteTouchesOnlyItsBits : Obligations.FieldWriteTouchesOnlyItsBits := by
  intro f v s hrw
  rw [fieldWrite_eq hrw, fieldWrite_eq hrw]
  refine ⟨regRead_putField_self f v s, ?_, fun r hr => regRead_putField_of_ne hr v s⟩
  rw [regRead_putField_self, mergeField_zero]

/-! ### The response and the registers -/

/-- A response changes no field outside the register `STATUS`. -/
theorem getField_respond {f : Field} (h : fieldReg f ≠ .status) (st : Status) (d : Word) (s : State) :
    getField f (respond st d s) = getField f s := by
  cases f with
  | stLast | stErr => exact absurd rfl h
  | tLoad c | tEn c | tIe c | tChn c | tIf c => simp [getField]
  | adCh sl | adDiff sl | adIen sl | adCoco sl | adR sl => simp [getField]
  | _ => rfl

theorem registersKept_respond (st : Status) (d : Word) (s : State) : RegistersKept s (respond st d s) := by
  intro r hr
  refine regRead_congr fun g hg => getField_respond ?_ st d s
  rwa [fieldReg_of_mem hg]

theorem respond_illegalCommand (d : Word) (s : State) :
    respond .illegalCommand d s = { s with
      rspStatus := 6#4, rspData := d, stLast := 6#4, stErr := s.stErr ||| 0b1000000#7, bg := .idle } := rfl

theorem respond_invalidFieldValue (d : Word) (s : State) :
    respond .invalidFieldValue d s = { s with
      rspStatus := 5#4, rspData := d, stLast := 5#4, stErr := s.stErr ||| 0b0100000#7, bg := .idle } := rfl

/-- The status `OK` sets no sticky bit (60_exceptions.md R133). -/
theorem respond_ok (d : Word) (s : State) :
    respond .ok d s = { s with rspStatus := 0#4, rspData := d, stLast := 0#4, bg := .idle } := by
  simp [respond, note, stickyBit, statusCode]

/-! ### `RALWR` -/

/-- An unknown id and a read-only field are rejected before the gate is tested (40_ral.md R82). -/
theorem exec_ralwr_of_not_writable {fid : Nat}
    (h : fieldOf fid = none ∨ ∃ f, fieldOf fid = some f ∧ fieldAcc f = .ro) (v : Word) (s : State) :
    exec (.ralwr fid v) s = .next (respond .illegalCommand 0#32 s) := by
  rcases h with hnone | ⟨f, hf, hro⟩
  · simp [exec, execRalwr, hnone]
  · simp [exec, execRalwr, hf, hro]

theorem exec_ralwr_of_illegal {fid : Nat} {f : Field} {v : Word} {s : State} (hf : fieldOf fid = some f)
    (hacc : fieldAcc f ≠ .ro) (hgate : ∀ g, regGate (fieldReg f) = some g → s.gate g = true)
    (hv : fieldLegal f v = false) :
    exec (.ralwr fid v) s = .next (respond .invalidFieldValue 0#32 s) := by
  simp [exec, execRalwr, hf, hacc, gatedField_of_up hgate, hv]

/-- Settles O18: both rejections are a response alone, and a response keeps every register but `STATUS`. -/
theorem ralwrRejectionWritesNothing : Obligations.RalwrRejectionWritesNothing := by
  constructor
  · intro fid v s h
    exact ⟨_, exec_ralwr_of_not_writable h v s, respond_illegalCommand _ s, registersKept_respond _ _ s⟩
  · intro fid f v s hf hacc hgate hv
    exact ⟨_, exec_ralwr_of_illegal hf hacc hgate hv, respond_invalidFieldValue _ s, registersKept_respond _ _ s⟩

/-! ### `RALRD` -/

/-- A field access with its gate down faults (20_memory.md R62). -/
theorem gatedField_of_down {α : Type} {f : Field} {g : Gate} {s : State} (hg : regGate (fieldReg f) = some g)
    (hdown : s.gate g = false) (a : α) : gatedField f s a = .error (.ungatedAccess g) := by
  simp [gatedField, hg, gated, hdown]

theorem exec_ralrd_of_unknown {fid : Nat} (h : fieldOf fid = none) (s : State) :
    exec (.ralrd fid) s = .next (respond .illegalCommand 0#32 s) := by
  simp [exec, execRalrd, h]

theorem exec_ralrd_of_known {fid : Nat} {f : Field} (h : fieldOf fid = some f) (s : State) :
    exec (.ralrd fid) s = finish (gatedField f s (respond .ok (getField f s) s)) := by
  simp [exec, execRalrd, h]

theorem getField_toNat_lt (f : Field) (s : State) : (getField f s).toNat < 2 ^ fieldWidth f :=
  Nat.lt_pow_two_of_testBit _ fun i hi => getLsbD_getField_high f s i hi

/-- Settles O19: an unknown id is rejected, a known one passes the gate test of its register, and what it answers is
the field's stored value. -/
theorem ralrdReturnsFieldValue : Obligations.RalrdReturnsFieldValue := by
  constructor
  · intro fid s h
    rw [exec_ralrd_of_unknown h, respond_illegalCommand]
  · intro fid f s h
    rw [exec_ralrd_of_known h]
    refine ⟨fun hup => ?_, fun g hg hdown => ?_, getField_toNat_lt f s⟩
    · rw [gatedField_of_up hup, finish_ok, respond_ok]
    · rw [gatedField_of_down hg hdown, finish_error]

end Sys2Proof.Machine
end

section
/-! PROOFS. The Timer Scheduler (41_timer_scheduler.md): an invalid channel index leaves everything but the response
(R94), `TCFG` writes one field in each of its three micro-steps (R90), `TSTART` and `TSTOP` write the run state (R91,
R92). -/

namespace Sys2Proof.Machine

open Sys2Proof

/-! ### An invalid channel index -/

theorem respond_invalidChannelIndex (d : Word) (s : State) :
    respond .invalidChannelIndex d s = { s with
      rspStatus := 1#4, rspData := d, stLast := 1#4, stErr := s.stErr ||| 0b0000010#7, bg := .idle } := rfl

theorem exec_tcfg_of_invalid {ch : Nat} (h : chanOf ch = none) (load : Word) (chained ie : Bool) (s : State) :
    exec (.tcfg ch load chained ie) s = .next (respond .invalidChannelIndex 0#32 s) := by
  simp [exec, execTcfg, h]

theorem exec_tstart_of_invalid {ch : Nat} (h : chanOf ch = none) (s : State) :
    exec (.tstart ch) s = .next (respond .invalidChannelIndex 0#32 s) := by
  simp [exec, execTstart, h]

theorem exec_tstop_of_invalid {ch : Nat} (h : chanOf ch = none) (s : State) :
    exec (.tstop ch) s = .next (respond .invalidChannelIndex 0#32 s) := by
  simp [exec, execTstop, h]

theorem chanOf_of_two_le {ch : Nat} (h : 2 ≤ ch) : chanOf ch = none := by
  obtain ⟨n, rfl⟩ := Nat.exists_eq_add_of_le' h
  rfl

/-- The image shows the registers and nothing else, so outside `STATUS` it is kept when they are (20_memory.md R48). -/
theorem imageByte_of_registersKept {s t : State} (h : RegistersKept s t) {offset : Nat}
    (hoff : offset / 4 * 4 ≠ 0x58) : imageByte t offset = imageByte s offset := by
  unfold imageByte
  cases hfind : allRegs.find? fun r => regOffset r = offset / 4 * 4 with
  | none => rfl
  | some r =>
    have hr : regOffset r = offset / 4 * 4 := by simpa using List.find?_some hfind
    have hne : r ≠ .status := by
      rintro rfl
      exact hoff hr.symm
    rw [Option.map_some, Option.map_some, h r hne]

/-- Settles O22: each of the three operations answers an index from 2 up with the response alone, and a response keeps
every register but `STATUS` (`registersKept_respond`). -/
theorem invalidTimerIndexLeavesImage : Obligations.InvalidTimerIndexLeavesImage := by
  intro ch i s hch hi
  have hnone : chanOf ch = none := chanOf_of_two_le hch
  have hexec : exec i s = .next (respond .invalidChannelIndex 0#32 s) := by
    rcases hi with ⟨load, chained, ie, rfl⟩ | rfl | rfl
    · exact exec_tcfg_of_invalid hnone load chained ie s
    · exact exec_tstart_of_invalid hnone s
    · exact exec_tstop_of_invalid hnone s
  refine ⟨_, hexec, rfl, ?_, fun offset hoff => ?_, fun sl => ?_, rfl⟩
  · have hbit : (stickyBit .invalidChannelIndex).getLsbD 1 = true := by decide
    rw [respond_stErr, BitVec.getLsbD_or, hbit, Bool.or_true]
  · exact imageByte_of_registersKept (registersKept_respond _ _ s) hoff
  · rw [conv_respond]

/-! ### The gate of a timer write -/

theorem gatedTmr_of_up {α : Type} {s : State} (h : s.gateTmr = true) (a : α) : gated .tmr s a = .ok a :=
  gated_of_up (g := .tmr) h a

theorem gatedTmr_of_down {α : Type} {s : State} (h : s.gateTmr = false) (a : α) :
    gated .tmr s a = .error (.ungatedAccess .tmr) :=
  gated_error_iff.mpr ⟨h, rfl⟩

@[simp] theorem map_error {α β : Type} (g : α → β) (f : Fault) :
    Except.map g (Except.error f : Except Fault α) = .error f := rfl

theorem writeLoad_of_up {s : State} (h : s.gateTmr = true) (c : Chan) (load : Word) :
    writeLoad c load s = .ok (s.setTimer c { s.timer c with load := load }) := by
  rw [writeLoad, gatedTmr_of_up h, regWrite_tLoad]

theorem writeChain_of_up {s : State} (h : s.gateTmr = true) (c : Chan) (chained : Bool) :
    writeChain c chained s = .ok (s.setTimer c { s.timer c with chn := chained }) := by
  rw [writeChain, gatedTmr_of_up h, fieldWrite_tChn]

theorem writeArm_of_up {s : State} (h : s.gateTmr = true) (c : Chan) (ie : Bool) :
    writeArm c ie s = .ok (s.setTimer c { s.timer c with ie := ie }) := by
  rw [writeArm, gatedTmr_of_up h, fieldWrite_tIe]

theorem writeRunState_of_up {s : State} (h : s.gateTmr = true) (c : Chan) (run : Bool) :
    writeRunState c run s = .ok (s.setTimer c { s.timer c with en := run }) := by
  rw [writeRunState, gatedTmr_of_up h, fieldWrite_tEn]

theorem writeLoad_of_down {s : State} (h : s.gateTmr = false) (c : Chan) (load : Word) :
    writeLoad c load s = .error (.ungatedAccess .tmr) := gatedTmr_of_down h _

theorem writeChain_of_down {s : State} (h : s.gateTmr = false) (c : Chan) (chained : Bool) :
    writeChain c chained s = .error (.ungatedAccess .tmr) := gatedTmr_of_down h _

theorem writeArm_of_down {s : State} (h : s.gateTmr = false) (c : Chan) (ie : Bool) :
    writeArm c ie s = .error (.ungatedAccess .tmr) := gatedTmr_of_down h _

theorem writeRunState_of_down {s : State} (h : s.gateTmr = false) (c : Chan) (run : Bool) :
    writeRunState c run s = .error (.ungatedAccess .tmr) := gatedTmr_of_down h _

/-! ### `TSTART` and `TSTOP` -/

theorem exec_tstart_of_valid {ch : Nat} {c : Chan} (h : chanOf ch = some c) (s : State) :
    exec (.tstart ch) s = finish ((writeRunState c true s).map (respond .ok 0#32)) := by
  simp [exec, execTstart, h]

theorem exec_tstop_of_valid {ch : Nat} {c : Chan} (h : chanOf ch = some c) (s : State) :
    exec (.tstop ch) s = finish ((writeRunState c false s).map (respond .ok 0#32)) := by
  simp [exec, execTstop, h]

/-- Settles O21: on a valid index both are a write of the run state and the response `OK`, which sets no sticky bit. -/
theorem tstartTstopSetRunState : Obligations.TstartTstopSetRunState := by
  intro ch s
  refine ⟨fun hnone => ?_, fun c hch hdown => ?_, fun c hch hup => ?_⟩
  · rw [exec_tstart_of_invalid hnone, exec_tstop_of_invalid hnone, respond_invalidChannelIndex]
    exact ⟨rfl, rfl⟩
  · rw [exec_tstart_of_valid hch, exec_tstop_of_valid hch, writeRunState_of_down hdown, writeRunState_of_down hdown]
    exact ⟨rfl, rfl⟩
  · rw [exec_tstart_of_valid hch, exec_tstop_of_valid hch, writeRunState_of_up hup, writeRunState_of_up hup,
      map_ok, map_ok, respond_ok, respond_ok]
    exact ⟨rfl, rfl⟩

/-! ### `TCFG`, position by position -/

theorem advance_advance (j k : Micro) (s : State) : advance j (advance k s) = advance j s := rfl

theorem setTimer_advance (c : Chan) (t : TimerChannel) (k : Micro) (s : State) :
    (advance k s).setTimer c t = advance k (s.setTimer c t) := by
  cases c <;> rfl

section
variable {ch : Nat} {c : Chan} {s : State} (hch : chanOf ch = some c) (load : Word) (chained ie : Bool)
include hch

theorem exec_tcfg_first (hup : s.gateTmr = true) (hbg : s.bg = .exec .first) :
    exec (.tcfg ch load chained ie) s =
      .next (advance .tcfgChain (s.setTimer c { s.timer c with load := load })) := by
  simp [exec, execTcfg, hch, hbg, writeLoad_of_up hup]

theorem exec_tcfg_chain (hup : s.gateTmr = true) (hbg : s.bg = .exec .tcfgChain) :
    exec (.tcfg ch load chained ie) s =
      .next (advance .tcfgArm (s.setTimer c { s.timer c with chn := chained })) := by
  simp [exec, execTcfg, hch, hbg, writeChain_of_up hup]

theorem exec_tcfg_arm (hup : s.gateTmr = true) (hbg : s.bg = .exec .tcfgArm) :
    exec (.tcfg ch load chained ie) s =
      .next (advance .tcfgRespond (s.setTimer c { s.timer c with ie := ie })) := by
  simp [exec, execTcfg, hch, hbg, writeArm_of_up hup]

theorem exec_tcfg_respond (hbg : s.bg = .exec .tcfgRespond) :
    exec (.tcfg ch load chained ie) s = .next (respond .ok 0#32 s) := by
  simp [exec, execTcfg, hch, hbg]

/-- Every position of `TCFG` but the response writes a timer register, so it needs the gate (20_memory.md R62). -/
theorem exec_tcfg_of_down (hdown : s.gateTmr = false) (hbg : s.bg ≠ .exec .tcfgRespond) :
    exec (.tcfg ch load chained ie) s = .fault (.ungatedAccess .tmr) := by
  simp only [exec, execTcfg, hch]
  split
  · rw [writeChain_of_down hdown, map_error, finish_error]
  · rw [writeArm_of_down hdown, map_error, finish_error]
  · exact absurd ‹_› hbg
  · rw [writeLoad_of_down hdown, map_error, finish_error]

end

/-! ### The interrupt line after the arming -/

/-- One armed channel with its flag set holds the line high (60_exceptions.md R138). -/
theorem irqLine_of_armed {c : Chan} {s : State} (hflag : (s.timer c).flag = true) (hie : (s.timer c).ie = true) :
    irqLine s = true := by
  cases c with
  | ch0 =>
    have h0 : s.tmr0.flag = true ∧ s.tmr0.ie = true := ⟨hflag, hie⟩
    simp [irqLine, h0]
  | ch1 =>
    have h1 : s.tmr1.flag = true ∧ s.tmr1.ie = true := ⟨hflag, hie⟩
    simp [irqLine, h1]

/-- With the line high and no dispatch in progress, a turn of the interrupt context is the entry (60_exceptions.md R148). -/
theorem interruptTurn_of_irqLine {s : State} (hisr : s.isr = .none) (hline : irqLine s = true)
    (hup : s.gateTmr = true) : interruptTurn s = .ok { s with isr := .line1 } := by
  rw [interruptTurn, if_pos hisr, if_pos hline, takeInterrupt, gatedTmr_of_up hup]

theorem step_interrupt_of_irqLine {s : State} (hisr : s.isr = .none) (hline : irqLine s = true)
    (hup : s.gateTmr = true) (rest : List Turn) :
    step { s with turns := .interrupt :: rest } = .next { s with isr := .line1, turns := rest } := by
  rw [step_of_turns rfl, takeTurn, interruptTurn_of_irqLine (s := { s with turns := rest }) hisr hline hup, finish_ok]

/-- Settles O20: the four positions of `TCFG` in a row, each adding its field to the channel's state; the arming leaves
the flag, so an armed channel with its flag set raises the line before the response. -/
theorem tcfgWritesLoadChainArm : Obligations.TcfgWritesLoadChainArm := by
  intro ch load chained ie s
  refine ⟨fun hnone => ?_, fun c hch hdown hbg => exec_tcfg_of_down hch load chained ie hdown hbg,
    fun c hch hup hbg => ?_⟩
  · rw [exec_tcfg_of_invalid hnone, respond_invalidChannelIndex]
  · have hfirst := exec_tcfg_first hch load chained ie hup hbg
    have hchain := exec_tcfg_chain (s := advance .tcfgChain (s.setTimer c { s.timer c with load := load }))
      hch load chained ie (by simpa using hup) rfl
    have harm := exec_tcfg_arm
      (s := advance .tcfgArm (s.setTimer c { s.timer c with load := load, chn := chained }))
      hch load chained ie (by simpa using hup) rfl
    have hrespond := exec_tcfg_respond
      (s := advance .tcfgRespond (s.setTimer c { s.timer c with load := load, chn := chained, ie := ie }))
      hch load chained ie rfl
    simp only [setTimer_advance, advance_advance, timer_advance, timer_setTimer, setTimer_setTimer, if_true]
      at hchain harm
    rw [respond_ok] at hrespond
    refine ⟨_, _, _, _, hfirst, hchain, harm, hrespond, rfl, rfl, rfl, rfl, fun hflag hie => ?_⟩
    have hline : irqLine (advance .tcfgRespond
        (s.setTimer c { s.timer c with load := load, chn := chained, ie := ie })) = true :=
      irqLine_of_armed (c := c) (by simpa using hflag) (by simpa using hie)
    exact ⟨hline, fun rest hisr => step_interrupt_of_irqLine (by simpa using hisr) hline (by simpa using hup) rest⟩

end Sys2Proof.Machine
end

section
/-! PROOFS. The Conversion Sequencer (42_conversion_sequencer.md): the two columns of `resolve`, and what follows from
them for every requested code (R98). -/

namespace Sys2Proof.Machine

open Sys2Proof

/-! ### The channel table -/

/-- The single-ended column (42_conversion_sequencer.md R98): every code up to 31 but the reserved ones is kept. -/
theorem resolve_singleEnded (cfg : Config) (code : Nat) :
    resolve cfg code false = if code ≤ 31 ∧ code ≠ 24 ∧ code ≠ 25 ∧ code ≠ 28 then code else 31 := by
  by_cases hbig : code > 31
  · have hout : ¬ code ≤ 31 := Nat.not_le.mpr hbig
    simp [resolve, hbig, hout]
  · by_cases hres : code = 24 ∨ code = 25 ∨ code = 28
    · rcases hres with rfl | rfl | rfl <;> rfl
    · have hin : code ≤ 31 ∧ code ≠ 24 ∧ code ≠ 25 ∧ code ≠ 28 := by omega
      rw [resolve, if_neg hbig, if_neg hres, if_pos rfl, if_pos hin]

/-- What differential mode accepts lies below 32 and is not reserved, because R9 bounds `DIFF_CH_MAX` by 23 and lets
`POS_REF_CODE` be 29 or 30 only. -/
theorem differential_code_unreserved {cfg : Config} {code : Nat}
    (h : code ≤ cfg.diffChMax ∨ code = 26 ∨ code = 27 ∨ code = cfg.posRefCode) :
    code ≤ 31 ∧ code ≠ 24 ∧ code ≠ 25 ∧ code ≠ 28 := by
  obtain ⟨-, -, hmax, hpos, -⟩ := cfg.legal
  omega

/-- The differential column (42_conversion_sequencer.md R98): the two tests that come first in `resolve` turn away
nothing that this column accepts. -/
theorem resolve_differential (cfg : Config) (code : Nat) :
    resolve cfg code true =
      if code ≤ cfg.diffChMax ∨ code = 26 ∨ code = 27 ∨ code = cfg.posRefCode then code else 31 := by
  by_cases hacc : code ≤ cfg.diffChMax ∨ code = 26 ∨ code = 27 ∨ code = cfg.posRefCode
  · obtain ⟨hle, h24, h25, h28⟩ := differential_code_unreserved hacc
    have hsmall : ¬ code > 31 := Nat.not_lt.mpr hle
    simp only [resolve, hsmall, h24, h25, h28, if_pos hacc]
    by_cases hdiff : code ≤ cfg.diffChMax
    · simp [hdiff]
    · simp [hacc.resolve_left hdiff]
  · obtain ⟨hdiff, hspecial⟩ := not_or.mp hacc
    simp [resolve, hdiff, hspecial]

/-! ### The resolved code -/

/-- `resolve` keeps a code only if it is one of 0..31 and not reserved; any other becomes "disabled". -/
theorem resolve_kept_or_disabled (cfg : Config) (code : Nat) (diff : Bool) :
    (resolve cfg code diff = code ∧ code ≤ 31 ∧ code ≠ 24 ∧ code ≠ 25 ∧ code ≠ 28) ∨ resolve cfg code diff = 31 := by
  cases diff with
  | false =>
    rw [resolve_singleEnded]
    split
    · exact .inl ⟨rfl, ‹_›⟩
    · exact .inr rfl
  | true =>
    rw [resolve_differential]
    split
    · exact .inl ⟨rfl, differential_code_unreserved ‹_›⟩
    · exact .inr rfl

@[simp] theorem resolve_disabled (cfg : Config) (diff : Bool) : resolve cfg 31 diff = 31 := by
  obtain ⟨hkept, -⟩ | hdisabled := resolve_kept_or_disabled cfg 31 diff
  · exact hkept
  · exact hdisabled

@[simp] theorem resolve_resolve (cfg : Config) (code : Nat) (diff : Bool) :
    resolve cfg (resolve cfg code diff) diff = resolve cfg code diff := by
  obtain ⟨hkept, -⟩ | hdisabled := resolve_kept_or_disabled cfg code diff
  · rw [hkept, hkept]
  · rw [hdisabled, resolve_disabled]

theorem resolve_unreserved (cfg : Config) (code : Nat) (diff : Bool) :
    resolve cfg code diff ≤ 31 ∧ resolve cfg code diff ≠ 24 ∧ resolve cfg code diff ≠ 25 ∧
      resolve cfg code diff ≠ 28 := by
  obtain ⟨hkept, hin⟩ | hdisabled := resolve_kept_or_disabled cfg code diff
  · rwa [hkept]
  · rw [hdisabled]
    decide

/-- Settles O24: the two columns, and what follows from a code being kept or disabled. -/
theorem resolveFollowsChannelTable : Obligations.ResolveFollowsChannelTable :=
  fun cfg code => ⟨resolve_singleEnded cfg code, resolve_differential cfg code,
    fun diff => ⟨resolve_resolve cfg code diff, resolve_unreserved cfg code diff⟩⟩

end Sys2Proof.Machine
end

section
/-! PROOFS. The Control Loop (43_control_loop.md): `DMAP` (R114, R117), `PWMUPD` (R118, R119), the null test of `INIT`
(R128), and that nothing but the reset leaves `RUN` (R126). -/

namespace Sys2Proof.Machine

open Sys2Proof

/-! ### `DMAP` -/

theorem exec_dmap (v : Word) (s : State) :
    exec (.dmap v) s = .next (respond .ok (BitVec.ofNat 32 (dutyOf s.cfg v.toNat)) s) := rfl

/-- The three regions of the map, each as a word (43_control_loop.md R114). -/
theorem ofNat_dutyOf (cfg : Config) (v : Nat) :
    BitVec.ofNat 32 (dutyOf cfg v) =
      if v ≤ cfg.tLow then 0#32
      else if cfg.tHigh ≤ v then 100#32
      else BitVec.ofNat 32 ((v - cfg.tLow) * 100 / (cfg.tHigh - cfg.tLow)) := by
  rw [dutyOf, apply_ite (BitVec.ofNat 32), apply_ite (BitVec.ofNat 32)]

/-- Settles O34: the response `OK` with the duty's three regions as its data, and a response is all that changes. -/
theorem dmapReturnsDuty : Obligations.DmapReturnsDuty := by
  intro v s
  rw [exec_dmap, respond_ok, ofNat_dutyOf]

/-! ### `PWMUPD` -/

/-- The comparator on the registers themselves (43_control_loop.md R118): both are words of one width, so their
unsigned order is that of their values. -/
theorem levelOf_toNat {n : Nat} (cfg : Config) (t d : BitVec n) :
    levelOf cfg t.toNat d.toNat = if d ≠ 0#n ∧ t ≤ d then cfg.activeLevel else !cfg.activeLevel := by
  have hzero : d.toNat ≠ 0 ↔ d ≠ 0#n := by simp [BitVec.toNat_eq]
  simp only [levelOf, isActive, decide_eq_true_eq, hzero, BitVec.le_def]

theorem gatedPin_of_up {α : Type} {s : State} (h : s.gatePin = true) (a : α) : gated .pin s a = .ok a :=
  gated_of_up (g := .pin) h a

theorem gatedPin_of_down {α : Type} {s : State} (h : s.gatePin = false) (a : α) :
    gated .pin s a = .error (.ungatedAccess .pin) :=
  gated_error_iff.mpr ⟨h, rfl⟩

theorem driveStep_of_up {s : State} (h : s.gatePin = true) : driveStep s = .ok { s with pin := s.outLevel } := by
  rw [driveStep, gatedPin_of_up h, fieldWrite_pin]

theorem driveStep_of_down {s : State} (h : s.gatePin = false) : driveStep s = .error (.ungatedAccess .pin) :=
  gatedPin_of_down h _

theorem exec_pwmupd_first {s : State} (hup : s.gatePin = true) (hbg : s.bg = .exec .first) :
    exec .pwmupd s = .next (advance .pwmPin (compareStep s)) := by
  simp [exec, execPwmupd, hbg, gatedPin_of_up hup]

theorem exec_pwmupd_pin {s : State} (hup : s.gatePin = true) (hbg : s.bg = .exec .pwmPin) :
    exec .pwmupd s = .next (respond .ok 0#32 { s with pin := s.outLevel }) := by
  simp [exec, execPwmupd, hbg, driveStep_of_up hup]

/-- Either position of `PWMUPD` needs the gate of the pin, the first one before it compares (43_control_loop.md R119). -/
theorem exec_pwmupd_of_down {s : State} (hdown : s.gatePin = false) :
    exec .pwmupd s = .fault (.ungatedAccess .pin) := by
  simp only [exec, execPwmupd]
  split
  · rw [driveStep_of_down hdown, map_error, finish_error]
  · rw [gatedPin_of_down hdown, finish_error]

/-- Settles O36: the two positions in a row; the first leaves the comparator's level, which is what the second drives. -/
theorem pwmupdDrivesComparatorLevel : Obligations.PwmupdDrivesComparatorLevel := by
  intro s
  refine ⟨exec_pwmupd_of_down, fun hup hbg => ?_⟩
  have hfirst := exec_pwmupd_first hup hbg
  have hpin := exec_pwmupd_pin (s := advance .pwmPin (compareStep s)) hup rfl
  rw [respond_ok] at hpin
  refine ⟨_, _, hfirst, hpin, ?_, ?_⟩ <;> rw [← levelOf_toNat] <;> rfl

/-! ### `INIT` with a reference absent -/

theorem respond_nullConfiguration (d : Word) (s : State) :
    respond .nullConfiguration d s = { s with
      rspStatus := 3#4, rspData := d, stLast := 3#4, stErr := s.stErr ||| 0b0001000#7, bg := .idle } := rfl

theorem allPresent_eq_false_iff (a : InitArgs) :
    allPresent a = false ↔ a.pClk = false ∨ a.pSlot = false ∨ a.pTmr = false := by
  simp only [allPresent, Bool.and_eq_false_iff, or_assoc]

theorem exec_init_of_absent {a : InitArgs} {s : State} (hbg : s.bg = .exec .first) (ha : allPresent a = false) :
    exec (.init a) s = .next (respond .nullConfiguration 0#32 s) := by
  simp [exec, execInit, hbg, ha]

/-- Settles O47: line 0 of `INIT` tests the three references before any gate or operand, and one that is absent ends it
with the response alone. -/
theorem initNullWritesNothing : Obligations.InitNullWritesNothing := by
  intro a s hbg habsent
  rw [exec_init_of_absent hbg ((allPresent_eq_false_iff a).mpr habsent), respond_nullConfiguration]

/-! ### What a line of an iteration changes -/

theorem afterLoopPoll_frame (sl : Slot) (s1 : Status) (bound : Word) (s : State) (p : Poll) :
    (afterLoopPoll sl s1 bound s p).2 = { s with stErr := (afterLoopPoll sl s1 bound s p).2.stErr } := by
  cases p with
  | ended st => by_cases hst : st = .ok <;> simp [afterLoopPoll, hst, note]
  | again left => rfl

/-- A line of an iteration writes the two slots, `DUTY`, `OUT_LEVEL`, `PIN` and the sticky bits, uses up a free value at
most, and leaves the rest, the command port with it (43_control_loop.md R121). -/
theorem loopStep_frame {p : LoopPos} {s t : State} {n : LoopNext} (h : loopStep p s = .ok (n, t)) :
    t = { s with
      adA := t.adA, adB := t.adB, duty := t.duty, outLevel := t.outLevel, pin := t.pin, stErr := t.stErr
      draws := t.draws } := by
  cases p with
  | line0 | duty | compare => cases h; rfl
  | select slot c m =>
    unfold loopStep at h
    dsimp only at h
    split at h
    · cases h; rfl
    · rename_i sl _
      obtain ⟨u, hu, he⟩ := map_ok_iff.mp h
      cases he
      obtain ⟨-, rfl⟩ := gated_ok_iff.mp hu
      rw [fieldWrite_adDiff]
      cases sl <;> rfl
  | code sl c m =>
    obtain ⟨u, hu, he⟩ := map_ok_iff.mp h
    cases he
    obtain ⟨-, rfl⟩ := gated_ok_iff.mp hu
    rw [fieldWrite_adCh]
    cases sl <;> rfl
  | wait | poll =>
    obtain ⟨a, -, he⟩ := map_ok_iff.mp h
    obtain rfl := congrArg Prod.snd he
    rw [afterLoopPoll_frame]
  | read sl s1 =>
    obtain ⟨r, hr, he⟩ := map_ok_iff.mp h
    cases he
    obtain ⟨-, rfl⟩ := gated_ok_iff.mp hr
    cases sl <;> rfl
  | drive st =>
    obtain ⟨u, hu, he⟩ := map_ok_iff.mp h
    cases he
    obtain ⟨-, rfl⟩ := gated_ok_iff.mp hu
    rw [fieldWrite_pin]

/-! ### What a turn of the interrupt context changes -/

theorem clearFlag_ch0 (s : State) : clearFlag .ch0 s = { s with tmr0 := { s.tmr0 with flag := false } } :=
  regWrite_tFlag_one .ch0 s

theorem clearFlag_ch1 (s : State) : clearFlag .ch1 s = { s with tmr1 := { s.tmr1 with flag := false } } :=
  regWrite_tFlag_one .ch1 s

theorem takeInterrupt_ok_iff {s t : State} :
    takeInterrupt s = .ok t ↔ s.gateTmr = true ∧ { s with isr := .line1 } = t :=
  gated_ok_iff

/-- Line 6 changes `TICK` at most, and the position (60_exceptions.md R143 to R145). -/
theorem invoke_frame (s : State) : invoke s = { s with tick := (invoke s).tick, isr := (invoke s).isr } := by
  unfold invoke
  split
  · rfl
  · split <;> rfl

/-- A line of the dispatch writes the two flags, `TICK` and its own position (60_exceptions.md R152). -/
theorem dispatchStep_frame {s t : State} (h : dispatchStep s = .ok t) :
    t = { s with
      tmr0 := { s.tmr0 with flag := t.tmr0.flag }, tmr1 := { s.tmr1 with flag := t.tmr1.flag }
      tick := t.tick, isr := t.isr } := by
  unfold dispatchStep at h
  simp only [clearFlag_ch0, clearFlag_ch1] at h
  cases hisr : s.isr with
  | none | waiting | line7 => simp only [hisr] at h; cases h; rfl
  | line1 | line2 | line5b =>
    simp only [hisr] at h
    obtain ⟨-, rfl⟩ := gated_ok_iff.mp h
    rfl
  | line3 | line4 | line5 =>
    simp only [hisr] at h
    split at h
    · obtain ⟨-, rfl⟩ := gated_ok_iff.mp h; rfl
    · cases h; rfl
  | line6 => simp only [hisr] at h; cases h; rw [invoke_frame]

theorem interruptTurn_frame {s t : State} (h : interruptTurn s = .ok t) :
    t = { s with
      tmr0 := { s.tmr0 with flag := t.tmr0.flag }, tmr1 := { s.tmr1 with flag := t.tmr1.flag }
      tick := t.tick, isr := t.isr } := by
  unfold interruptTurn at h
  split at h
  · split at h
    · obtain ⟨-, rfl⟩ := takeInterrupt_ok_iff.mp h; rfl
    · cases h; rfl
  · exact dispatchStep_frame h

theorem spuriousTurn_frame {s t : State} (h : spuriousTurn s = .ok t) : t = { s with isr := t.isr } := by
  unfold spuriousTurn at h
  split at h
  · obtain ⟨-, rfl⟩ := takeInterrupt_ok_iff.mp h; rfl
  · cases h; rfl

theorem handlerReturn_frame (s : State) : handlerReturn s = { s with isr := (handlerReturn s).isr } := by
  unfold handlerReturn
  split <;> rfl

/-! ### `RUN` -/

/-- The block is in `Run`, with its response values, its pending commands and its latched words as in `s`. -/
structure StaysInRun (s t : State) : Prop where
  position : ∃ q, t.bg = .run q
  rspStatus : t.rspStatus = s.rspStatus
  rspData : t.rspData = s.rspData
  commands : t.commands = s.commands
  latched : latched t = latched s

theorem exec_run_of_run {s : State} {p : LoopPos} (hbg : s.bg = .run p) :
    exec .run s = finish ((loopStep p s).map runAfter) := by
  simp [exec, execRun, hbg]

theorem backgroundStep_of_run {s : State} {p : LoopPos} (hbg : s.bg = .run p) :
    backgroundStep s = exec .run s := by
  simp [backgroundStep, hbg]

/-- A micro-step of `RUN` goes on to a line or, after the last, back to line 0 (43_control_loop.md R125). -/
theorem exec_run_staysInRun {s t : State} {p : LoopPos} (h : exec .run s = .next t) (hbg : s.bg = .run p) :
    StaysInRun s t := by
  rw [exec_run_of_run hbg, finish_next_iff, map_ok_iff] at h
  obtain ⟨⟨n, u⟩, hu, rfl⟩ := h
  rw [loopStep_frame hu]
  cases n with
  | goto q => exact ⟨⟨q, rfl⟩, rfl, rfl, rfl, rfl⟩
  | ended st => exact ⟨⟨.line0, rfl⟩, rfl, rfl, rfl, rfl⟩

/-- The background context in `Run` performs a micro-step of `RUN`, or nothing in a dispatch; it is not idle, so it
accepts nothing (30_encoding.md R80). -/
theorem backgroundTurn_staysInRun {s t : State} {p : LoopPos} (h : backgroundTurn s = .next t)
    (hbg : s.bg = .run p) : StaysInRun s t := by
  obtain ⟨hidle, -⟩ | ⟨-, -, e⟩ | ⟨-, -, e⟩ := backgroundTurn_cases s
  · rw [hbg] at hidle; cases hidle
  · rw [e, backgroundStep_of_run hbg] at h
    exact exec_run_staysInRun h hbg
  · rw [e] at h; cases h
    exact ⟨⟨p, hbg⟩, rfl, rfl, rfl, rfl⟩

theorem setTimer_staysInRun {s : State} {p : LoopPos} (hbg : s.bg = .run p) (c : Chan) (v : TimerChannel) :
    StaysInRun s (s.setTimer c v) := by
  constructor <;> simp [hbg, latched]

theorem setConv_staysInRun {s : State} {p : LoopPos} (hbg : s.bg = .run p) (sl : Slot) (v : ConvSlot) :
    StaysInRun s (s.setConv sl v) := by
  constructor <;> simp [hbg, latched]

theorem setGate_staysInRun {s : State} {p : LoopPos} (hbg : s.bg = .run p) (g : Gate) (v : Bool) :
    StaysInRun s (s.setGate g v) := by
  constructor <;> simp [hbg, latched]

/-- Every turn but the reset stays in `Run`: the background context's by the loop, the others because they do not
touch its position. -/
theorem takeTurn_staysInRun {x : Turn} {s t : State} {p : LoopPos} (h : takeTurn x s = .next t)
    (hbg : s.bg = .run p) (hx : x ≠ .powerCycle) : StaysInRun s t := by
  have hsame : StaysInRun s s := ⟨⟨p, hbg⟩, rfl, rfl, rfl, rfl⟩
  cases x with
  | background => exact backgroundTurn_staysInRun h hbg
  | interrupt =>
    rw [interruptTurn_frame (finish_next_iff.mp h)]
    exact ⟨⟨p, hbg⟩, rfl, rfl, rfl, rfl⟩
  | spurious =>
    rw [spuriousTurn_frame (finish_next_iff.mp h)]
    exact ⟨⟨p, hbg⟩, rfl, rfl, rfl, rfl⟩
  | timerExpire c =>
    cases h
    unfold timerExpire
    split
    · exact setTimer_staysInRun hbg _ _
    · exact hsame
  | convComplete sl v =>
    cases h
    unfold convComplete
    split
    · exact setConv_staysInRun hbg _ _
    · exact hsame
  | handlerReturn =>
    cases h
    rw [handlerReturn_frame]
    exact ⟨⟨p, hbg⟩, rfl, rfl, rfl, rfl⟩
  | setGate g v => cases h; exact setGate_staysInRun hbg g v
  | powerCycle => exact absurd rfl hx

/-- Settles O44: a step is one turn on the state without it, and `takeTurn_staysInRun` holds of every turn but the
reset. -/
theorem runNeverLeaves : Obligations.RunNeverLeaves := by
  intro s t p hstep hbg hturn
  rw [step_eq_takeTurn] at hstep
  obtain ⟨hposition, hstatus, hdata, hcommands, hlatched⟩ := takeTurn_staysInRun hstep hbg hturn
  exact ⟨hposition, hstatus, hdata, hcommands, hlatched⟩

end Sys2Proof.Machine
end

section
/-! PROOFS. The encoding (30_encoding.md): a row's selection decides the decoder (R68, R76), the operands of an encoded
instruction read back (R64, R67 to R70), and the bytes of an accepted word are the encoder's (R65, R73). -/

namespace Sys2Proof

open Sys2Proof.Laws

/-! ### Selection by a row decides the decoder -/

/-- A word that a row selects is decoded by that row; only the `ARG0` of `INIT` can still be rejected. -/
theorem decode_of_selected {c : Command} {p : Op} (h : c.cw &&& p.mask = p.pattern) :
    decode c = if p = .init ∧ initReserved c.arg0 = true then .error .reservedArg0 else .ok (p.operands c) := by
  simp [decode, ofCode_of_selected h, h]

/-- What a decoded command says of its words: a row selects it, and the instruction is that row's operands. -/
theorem selected_of_decode_ok {c : Command} {i : Instr} (h : decode c = .ok i) :
    ∃ p : Op, c.cw &&& p.mask = p.pattern ∧ (p = .init → initReserved c.arg0 = false) ∧ i = p.operands c := by
  unfold decode at h
  cases hcode : Op.ofCode (bits c.cw 31 24) with
  | none => simp [hcode] at h
  | some p =>
    simp only [hcode] at h
    split at h
    · cases h
    · split at h
      · cases h
      · rename_i hselected hreserved
        cases h
        refine ⟨p, not_not.mp hselected, fun hp => ?_, rfl⟩
        simpa [hp] using hreserved

/-- With no row selecting it, a word is rejected for its `OP` or its format. -/
theorem decode_of_unselected {c : Command} (h : ∀ p : Op, c.cw &&& p.mask ≠ p.pattern) :
    decode c = .error .reservedOp ∨ decode c = .error .reservedBits := by
  unfold decode
  cases Op.ofCode (bits c.cw 31 24) with
  | none => exact .inl rfl
  | some p => exact .inr (if_pos (h p))

/-- Two rows selecting one word have the code in its `OP`, so they are one row. -/
theorem row_unique {w : Word} {p q : Op} (hp : w &&& p.mask = p.pattern) (hq : w &&& q.mask = q.pattern) : p = q :=
  Option.some.inj ((ofCode_of_selected hp).symm.trans (ofCode_of_selected hq))

/-- Settles O3: rows are told apart by `OP`, and the decoder's first two rejections are those of an unselected word. -/
theorem commandWordSelectsOneRow : Obligations.CommandWordSelectsOneRow := by
  refine ⟨fun w p q hp hq => row_unique hp hq, fun c => ⟨?_, ?_⟩⟩
  · rintro ⟨p, hp⟩
    rw [decode_of_selected hp]
    split <;> simp
  · rintro ⟨hop, hbits⟩
    by_contra hnone
    obtain h | h := decode_of_unselected (not_exists.mp hnone)
    · exact hop h
    · exact hbits h

/-! ### Reading back an encoded instruction -/

/-- Every instruction's command word is selected by its row (the family `EncodesItsRow`). -/
theorem encode_selects (i : Instr) : (encode i).cw &&& (EncodesItsRow.row i).mask = (EncodesItsRow.row i).pattern := by
  cases i with
  | ralwr fid v => exact EncodesItsRow.ralwr fid v
  | ralrd fid => exact EncodesItsRow.ralrd fid
  | tcfg ch load chained ie => exact EncodesItsRow.tcfg ch load chained ie
  | tstart ch => exact EncodesItsRow.tstart ch
  | tstop ch => exact EncodesItsRow.tstop ch
  | cbreg handle => exact EncodesItsRow.cbreg handle
  | adsel slot code diff => exact EncodesItsRow.adsel slot code diff
  | adwait slot => exact EncodesItsRow.adwait slot
  | adread slot => exact EncodesItsRow.adread slot
  | dmap v => exact EncodesItsRow.dmap v
  | pwmupd => exact EncodesItsRow.pwmupd
  | loopit => exact EncodesItsRow.loopit
  | run => exact EncodesItsRow.run
  | init args => exact EncodesItsRow.init args

theorem fitsByte_mod {n : Nat} (h : fitsByte n = true) : n % 256 = n :=
  Nat.mod_eq_of_lt (of_decide_eq_true h)

theorem flagAt_lt (b : Bool) (k : Nat) : flagAt b k < 2 ^ (k + 1) := by
  cases b <;> simp [flagAt, Nat.pow_lt_pow_succ]

/-- The eight flags of `INIT` sit in eight bits of their own. -/
theorem initFlags_testBit (a : InitArgs) :
    (initFlags a).testBit 0 = a.tChained ∧ (initFlags a).testBit 1 = a.tIe ∧ (initFlags a).testBit 2 = a.tEnabled ∧
      (initFlags a).testBit 3 = a.sDiff ∧ (initFlags a).testBit 4 = a.sIen ∧ (initFlags a).testBit 5 = a.pClk ∧
      (initFlags a).testBit 6 = a.pSlot ∧ (initFlags a).testBit 7 = a.pTmr := by
  have hbytes : ∀ b0 b1 b2 b3 b4 b5 b6 b7 : Bool,
      let n := flagAt b0 0 + flagAt b1 1 + flagAt b2 2 + flagAt b3 3 + flagAt b4 4 + flagAt b5 5 + flagAt b6 6 +
        flagAt b7 7
      n.testBit 0 = b0 ∧ n.testBit 1 = b1 ∧ n.testBit 2 = b2 ∧ n.testBit 3 = b3 ∧ n.testBit 4 = b4 ∧
        n.testBit 5 = b5 ∧ n.testBit 6 = b6 ∧ n.testBit 7 = b7 := by
    decide
  exact hbytes _ _ _ _ _ _ _ _

theorem initArg0_toNat (a : InitArgs) :
    (initArg0 a).toNat =
      a.kIclk.toNat + a.kMode.toNat * 4 + (flagAt a.kSmplt 0) * 16 + a.kDiv.toNat * 32 + a.sSlot % 256 * 256 := by
  have hflag : flagAt a.kSmplt 4 = flagAt a.kSmplt 0 * 16 := by cases a.kSmplt <;> rfl
  have hsmplt := flagAt_lt a.kSmplt 0
  have hiclk := a.kIclk.isLt
  have hmode := a.kMode.isLt
  have hdiv := a.kDiv.isLt
  rw [initArg0, BitVec.toNat_ofNat, hflag]
  omega

theorem bits_eq_div_mod (w : Word) (hi lo : Nat) : bits w hi lo = w.toNat / 2 ^ lo % 2 ^ (hi + 1 - lo) := by
  rw [bits, Nat.shiftRight_eq_div_pow]

theorem bits_lt (w : Word) (hi lo : Nat) : bits w hi lo < 2 ^ (hi + 1 - lo) :=
  Nat.mod_lt _ (Nat.two_pow_pos _)

theorem bits_and (x y : Word) (hi lo : Nat) : bits (x &&& y) hi lo = bits x hi lo &&& bits y hi lo := by
  rw [bits, bits, bits, BitVec.toNat_and, Nat.shiftRight_and_distrib, Nat.and_mod_two_pow]

/-- The bits that a mask covers. -/
theorem bits_and_of_covered {x y : Word} {hi lo : Nat} (h : bits y hi lo = 2 ^ (hi + 1 - lo) - 1) :
    bits (x &&& y) hi lo = bits x hi lo := by
  rw [bits_and, h, Nat.and_two_pow_sub_one_eq_mod, Nat.mod_eq_of_lt (bits_lt x hi lo)]

theorem bits_and_of_uncovered {x y : Word} {hi lo : Nat} (h : bits y hi lo = 0) : bits (x &&& y) hi lo = 0 := by
  rw [bits_and, h, Nat.and_zero]

theorem eq_zero_iff_bits (w : Word) :
    w = 0#32 ↔ bits w 31 16 = 0 ∧ bits w 15 8 = 0 ∧ bits w 7 7 = 0 ∧ bits w 6 0 = 0 := by
  have hw := w.isLt
  have hzero : w = 0#32 ↔ w.toNat = 0 := by rw [BitVec.toNat_eq]; rfl
  simp only [hzero, bits_eq_div_mod]
  omega

/-- The reserved bits of the `ARG0` of `INIT` are bit 7 and the upper half (30_encoding.md R70). -/
theorem initReserved_eq_false_iff (w : Word) :
    initReserved w = false ↔ bits w 31 16 = 0 ∧ bits w 7 7 = 0 := by
  have hhigh : bits (w &&& 0xFFFF0080#32) 31 16 = bits w 31 16 := bits_and_of_covered (by decide)
  have hmiddle : bits (w &&& 0xFFFF0080#32) 15 8 = 0 := bits_and_of_uncovered (by decide)
  have hbit : bits (w &&& 0xFFFF0080#32) 7 7 = bits w 7 7 := bits_and_of_covered (by decide)
  have hlow : bits (w &&& 0xFFFF0080#32) 6 0 = 0 := bits_and_of_uncovered (by decide)
  rw [initReserved, decide_eq_false_iff_not, not_not, eq_zero_iff_bits, hhigh, hbit]
  simp [hmiddle, hlow]

theorem getLsbD_eq_bits (w : Word) (k : Nat) : w.getLsbD k = decide (bits w k k = 1) := by
  rw [bits_eq_div_mod, Nat.add_sub_cancel_left, BitVec.getLsbD, Nat.testBit_eq_decide_div_mod_eq]
  simp

/-- The `ARG0` that the encoder writes for `INIT` has its reserved bits 0. -/
theorem initReserved_initArg0 (a : InitArgs) : initReserved (initArg0 a) = false := by
  have hsmplt := flagAt_lt a.kSmplt 0
  have hiclk := a.kIclk.isLt
  have hmode := a.kMode.isLt
  have hdiv := a.kDiv.isLt
  rw [initReserved_eq_false_iff, bits_eq_div_mod, bits_eq_div_mod, initArg0_toNat]
  constructor <;> omega

/-- The five record fields of the `ARG0` of `INIT` read back (30_encoding.md R70). -/
theorem initArg0_fields (a : InitArgs) :
    BitVec.ofNat 2 (bits (initArg0 a) 1 0) = a.kIclk ∧ BitVec.ofNat 2 (bits (initArg0 a) 3 2) = a.kMode ∧
      (initArg0 a).getLsbD 4 = a.kSmplt ∧ BitVec.ofNat 2 (bits (initArg0 a) 6 5) = a.kDiv ∧
      bits (initArg0 a) 15 8 = a.sSlot % 256 := by
  have hsmplt := flagAt_lt a.kSmplt 0
  have hiclk := a.kIclk.isLt
  have hmode := a.kMode.isLt
  have hdiv := a.kDiv.isLt
  simp only [getLsbD_eq_bits, bits_eq_div_mod, initArg0_toNat]
  refine ⟨?_, ?_, ?_, ?_, by omega⟩
  · apply BitVec.eq_of_toNat_eq; rw [BitVec.toNat_ofNat]; omega
  · apply BitVec.eq_of_toNat_eq; rw [BitVec.toNat_ofNat]; omega
  · have hbit : a.kSmplt = decide (flagAt a.kSmplt 0 = 1) := by cases a.kSmplt <;> rfl
    conv_rhs => rw [hbit]
    rw [decide_eq_decide]
    omega
  · apply BitVec.eq_of_toNat_eq; rw [BitVec.toNat_ofNat]; omega

theorem initArgsOf_encode {a : InitArgs} (h : (Instr.init a).wellFormed = true) :
    initArgsOf (encode (.init a)) = a := by
  simp only [Instr.wellFormed, Bool.and_eq_true] at h
  obtain ⟨⟨hindex, hslot⟩, hcode⟩ := h
  obtain ⟨hchained, hie, hen, hdiff, hien, hclk, hpslot, htmr⟩ := initFlags_testBit a
  obtain ⟨hiclk, hmode, hsmplt, hdiv, hbyte⟩ := initArg0_fields a
  simp only [initArgsOf, encode, flagBit_packCw, fieldA_packCw, fieldC_packCw, fitsByte_mod, Nat.reduceLT, *]

/-- The row's operands, read from the encoder's words, are the instruction (30_encoding.md R64, R69, R70). -/
theorem operands_encode {i : Instr} (h : i.wellFormed = true) :
    (EncodesItsRow.row i).operands (encode i) = i := by
  cases i with
  | init a => exact congrArg Instr.init (initArgsOf_encode h)
  | tcfg ch load chained ie =>
    have hflags : ∀ b0 b1 : Bool, (flagAt b0 0 + flagAt b1 1).testBit 0 = b0 ∧
      (flagAt b0 0 + flagAt b1 1).testBit 1 = b1 := by decide
    obtain ⟨h0, h1⟩ := hflags chained ie
    simp [EncodesItsRow.row, Op.operands, encode, flagBit_packCw, h0, h1, fitsByte_mod h]
  | adsel slot code diff =>
    simp only [Instr.wellFormed, Bool.and_eq_true] at h
    have hflag : (flagAt diff 0).testBit 0 = diff := by cases diff <;> rfl
    simp [EncodesItsRow.row, Op.operands, encode, flagBit_packCw, hflag, fitsByte_mod h.1, fitsByte_mod h.2]
  | ralwr | ralrd | tstart | tstop | adwait | adread =>
    simp [EncodesItsRow.row, Op.operands, encode, fitsByte_mod h]
  | cbreg | dmap | pwmupd | loopit | run => rfl

/-- Settles O1: the instruction's own row selects its word, `INIT`'s reserved bits are written 0, and the operands read
back. -/
theorem decodeEncodeRoundTrip : Obligations.DecodeEncodeRoundTrip := by
  intro i hwf
  rw [decode_of_selected (encode_selects i), operands_encode hwf, if_neg]
  rintro ⟨hrow, hreserved⟩
  cases i with
  | init a => exact Bool.false_ne_true ((initReserved_initArg0 a).symm.trans hreserved)
  | _ => cases hrow

/-! ### Writing an accepted word again -/

/-- A word is its four bytes packed (30_encoding.md R64). -/
theorem packCw_bytes (w : Word) : packCw (bits w 31 24) (fieldA w) (bits w 15 8) (fieldC w) = w := by
  apply BitVec.eq_of_toNat_eq
  have hw := w.isLt
  simp only [packCw_toNat, fieldA, fieldC, bits_eq_div_mod]
  omega

/-- A bit of a word that the encoder writes again as a flag. -/
theorem flagAt_getLsbD (w : Word) (i k : Nat) : flagAt (w.getLsbD i) k = bits w i i * 2 ^ k := by
  have hlt := bits_lt w i i
  rw [Nat.add_sub_cancel_left] at hlt
  rw [getLsbD_eq_bits]
  by_cases hone : bits w i i = 1
  · simp [flagAt, hone]
  · have hzero : bits w i i = 0 := by omega
    simp [flagAt, hzero]

/-- The bits that the mask covers are those of the row's `match`. -/
theorem bits_of_selected {w : Word} {p : Op} (h : w &&& p.mask = p.pattern) {hi lo : Nat}
    (hm : bits p.mask hi lo = 2 ^ (hi + 1 - lo) - 1) : bits w hi lo = bits p.pattern hi lo := by
  rw [← bits_and_of_covered hm, h]

/-- The flag byte of `TCFG`: two flags, the other six bits 0. -/
theorem flagByte_tcfg {w : Word} (h : w &&& Op.tcfg.mask = Op.tcfg.pattern) :
    flagAt (flagBit w 0) 0 + flagAt (flagBit w 1) 1 = bits w 15 8 := by
  have hrest : bits w 15 10 = 0 := bits_of_selected h (by decide)
  simp only [flagBit, flagAt_getLsbD, bits_eq_div_mod] at hrest ⊢
  omega

/-- The flag byte of `ADSEL`: one flag, the other seven bits 0. -/
theorem flagByte_adsel {w : Word} (h : w &&& Op.adsel.mask = Op.adsel.pattern) :
    flagAt (flagBit w 0) 0 = bits w 15 8 := by
  have hrest : bits w 15 9 = 0 := bits_of_selected h (by decide)
  simp only [flagBit, flagAt_getLsbD, bits_eq_div_mod] at hrest ⊢
  omega

/-- The flag byte of `INIT` is made of its eight flags. -/
theorem initFlags_initArgsOf (c : Command) : initFlags (initArgsOf c) = bits c.cw 15 8 := by
  simp only [initFlags, initArgsOf, flagBit, flagAt_getLsbD, bits_eq_div_mod]
  omega

/-- The `ARG0` of an accepted `INIT` is made of its five record fields (30_encoding.md R70). -/
theorem initArg0_initArgsOf {c : Command} (h : initReserved c.arg0 = false) : initArg0 (initArgsOf c) = c.arg0 := by
  obtain ⟨hhigh, hbit⟩ := (initReserved_eq_false_iff _).mp h
  have hw := c.arg0.isLt
  apply BitVec.eq_of_toNat_eq
  rw [initArg0_toNat]
  simp only [initArgsOf, BitVec.toNat_ofNat, flagAt_getLsbD, bits_eq_div_mod] at hhigh hbit ⊢
  omega

/-- The encoder writes the word that the row's operands were read from (30_encoding.md R73). -/
theorem encode_operands_cw {c : Command} {p : Op} (h : c.cw &&& p.mask = p.pattern) :
    (encode (p.operands c)).cw = c.cw := by
  conv_rhs => rw [← packCw_bytes c.cw]
  have hop : bits c.cw 31 24 = bits p.pattern 31 24 := bits_of_selected h (by cases p <;> decide)
  rw [hop]
  cases p with
  | ralwr | ralrd | tstart | tstop | adwait | adread =>
    rw [bits_of_selected h (hi := 15) (lo := 8) (by decide), fieldC, bits_of_selected h (hi := 7) (lo := 0) (by decide)]
    rfl
  | cbreg | dmap | pwmupd | loopit | run =>
    rw [bits_of_selected h (hi := 15) (lo := 8) (by decide), fieldC, bits_of_selected h (hi := 7) (lo := 0) (by decide),
      fieldA, bits_of_selected h (hi := 23) (lo := 16) (by decide)]
    rfl
  | tcfg =>
    rw [← flagByte_tcfg h, fieldC, bits_of_selected h (hi := 7) (lo := 0) (by decide)]
    rfl
  | adsel =>
    rw [← flagByte_adsel h]
    rfl
  | init =>
    rw [← initFlags_initArgsOf c]
    rfl

theorem operands_wellFormed (c : Command) (p : Op) : (p.operands c).wellFormed = true := by
  have hbyte : ∀ hi lo, hi + 1 - lo = 8 → ∀ w, fitsByte (bits w hi lo) = true := by
    intro hi lo hwidth w
    have := bits_lt w hi lo
    rw [hwidth] at this
    exact decide_eq_true this
  cases p <;> simp [Op.operands, Instr.wellFormed, initArgsOf, fieldA, fieldC, hbyte]

/-- Settles O2: an accepted command is selected by a row and decodes to that row's operands, whose encoding has the
command's bytes and, where the format uses them, its operand words. -/
theorem decodedCommandIsReproduced : Obligations.DecodedCommandIsReproduced := by
  intro c i hdecode
  obtain ⟨p, hselected, hreserved, rfl⟩ := selected_of_decode_ok hdecode
  refine ⟨operands_wellFormed c p, encode_operands_cw hselected, fun huses => ?_, fun huses => ?_⟩
  · cases p with
    | init => exact initArg0_initArgsOf (hreserved rfl)
    | ralwr | tcfg | cbreg | dmap => rfl
    | _ => cases huses
  · cases p with
    | init => rfl
    | _ => cases huses

/-- Settles O4: each word lies in the row of its `OP`, or is rejected by `OP`, by the mask, or by `ARG0`. -/
theorem writtenOutWordsDecode : Obligations.WrittenOutWordsDecode := by
  unfold Obligations.WrittenOutWordsDecode
  decide

end Sys2Proof
end

section
/-! PROOFS. One rule for each shared operation of the micro-steps (the gate of the converter, a select, a poll, a result
read, a field store of `RALWR`), and one inversion lemma for each operation of the block: what its micro-step can leave. -/

namespace Sys2Proof.Machine

open Sys2Proof

/-! ### The gate of the converter -/

theorem gatedAdc_of_up {α : Type} {s : State} (h : s.gateAdc = true) (a : α) : gated .adc s a = .ok a :=
  gated_of_up (g := .adc) h a

theorem gatedAdc_of_down {α : Type} {s : State} (h : s.gateAdc = false) (a : α) :
    gated .adc s a = .error (.ungatedAccess .adc) :=
  gated_error_iff.mpr ⟨h, rfl⟩

/-! ### A select -/

/-- A slot whose code has been written (42_conversion_sequencer.md R103): the flag falls, and the conversion starts
unless the code is "disabled". -/
def ConvSlot.start (v : ConvSlot) (code : BitVec 5) : ConvSlot :=
  { v with ch := code, coco := false, busy := decide (code ≠ 31#5) }

/-- The start of a conversion after the write of a code, in one step. -/
theorem startConversion_fieldWrite_adCh (sl : Slot) (v : Word) (s : State) :
    startConversion sl (fieldWrite (.adCh sl) v s) = s.setConv sl ((s.conv sl).start (v.setWidth 5)) := by
  simp [ConvSlot.start]

/-- A resolved code fits the five bits of `AD_CH`. -/
theorem start_resolve (v : ConvSlot) (cfg : Config) (code : Nat) (diff : Bool) :
    v.start (BitVec.ofNat 5 (resolve cfg code diff)) =
      { v with
        ch := BitVec.ofNat 5 (resolve cfg code diff), coco := false
        busy := decide (resolve cfg code diff ≠ 31) } := by
  have hle := (resolve_unreserved cfg code diff).1
  have hdisabled : BitVec.ofNat 5 (resolve cfg code diff) = 31#5 ↔ resolve cfg code diff = 31 := by
    rw [BitVec.toNat_eq, BitVec.toNat_ofNat, BitVec.toNat_ofNat]
    omega
  simp only [ConvSlot.start, ne_eq, hdisabled]

theorem selectMode_of_up {s : State} (h : s.gateAdc = true) (sl : Slot) (diff : Bool) :
    selectMode sl diff s = .ok (s.setConv sl { s.conv sl with diff := diff }) := by
  rw [selectMode, gatedAdc_of_up h, fieldWrite_adDiff]

theorem selectCode_of_up {s : State} (h : s.gateAdc = true) (sl : Slot) (code : Nat) (diff : Bool) :
    selectCode sl code diff s =
      .ok (s.setConv sl ((s.conv sl).start (BitVec.ofNat 5 (resolve s.cfg code diff)))) := by
  rw [selectCode, gatedAdc_of_up h, startConversion_fieldWrite_adCh, BitVec.setWidth_ofNat_of_le (by decide)]

theorem selectMode_ok_iff {sl : Slot} {diff : Bool} {s t : State} :
    selectMode sl diff s = .ok t ↔ s.gateAdc = true ∧ t = s.setConv sl { s.conv sl with diff := diff } := by
  rw [selectMode, gated_ok_iff, fieldWrite_adDiff, eq_comm (a := t)]
  rfl

theorem selectCode_ok_iff {sl : Slot} {code : Nat} {diff : Bool} {s t : State} :
    selectCode sl code diff s = .ok t ↔ s.gateAdc = true ∧
      t = s.setConv sl ((s.conv sl).start (BitVec.ofNat 5 (resolve s.cfg code diff))) := by
  rw [selectCode, gated_ok_iff, startConversion_fieldWrite_adCh, BitVec.setWidth_ofNat_of_le (by decide),
    eq_comm (a := t)]
  rfl

/-! ### A poll and a result read -/

theorem pollSlot_of_up {s : State} (h : s.gateAdc = true) (sl : Slot) (bound left : Word) :
    pollSlot sl bound left s = .ok (pollFlag (s.conv sl).coco bound left) :=
  gatedAdc_of_up h _

theorem pollSlot_ok_iff {sl : Slot} {bound left : Word} {s : State} {p : Poll} :
    pollSlot sl bound left s = .ok p ↔ s.gateAdc = true ∧ pollFlag (s.conv sl).coco bound left = p :=
  gated_ok_iff

@[simp] theorem pollFlag_true (bound left : Word) : pollFlag true bound left = .ended .ok := rfl

/-- A wait without a bound goes on (42_conversion_sequencer.md R106). -/
@[simp] theorem pollFlag_unbounded (left : Word) : pollFlag false 0#32 left = .again left := by
  simp [pollFlag]

/-- The last poll of a bounded wait ends it. -/
theorem pollFlag_last {bound : Word} (hb : bound ≠ 0#32) : pollFlag false bound 1#32 = .ended .conversionTimeout := by
  simp [pollFlag, hb]

/-- A poll before the last counts one. -/
theorem pollFlag_counts {bound left : Word} (hb : bound ≠ 0#32) (hl : 1 < left.toNat) :
    pollFlag false bound left = .again (left - 1#32) := by
  have hne : left - 1#32 ≠ 0#32 := by
    intro h
    have := congrArg BitVec.toNat h
    rw [BitVec.toNat_sub_of_le (by rw [BitVec.le_def]; exact hl.le)] at this
    simp at this
    omega
  simp [pollFlag, hb, hne]

/-- The two ways a poll ends a wait: the flag is 1, or the bound is reached. -/
theorem pollFlag_ended {coco : Bool} {bound left : Word} {st : Status} (h : pollFlag coco bound left = .ended st) :
    (st = .ok ∧ coco = true) ∨ (st = .conversionTimeout ∧ coco = false) := by
  unfold pollFlag at h
  split at h
  · cases h; exact .inl ⟨rfl, ‹_›⟩
  · split at h
    · cases h
    · split at h <;> cases h
      exact .inr ⟨rfl, Bool.not_eq_true _ ▸ ‹_›⟩

/-- A poll that goes on leaves a wait in progress, if its count came from one or is the bound itself. -/
theorem pollFlag_again {coco : Bool} {bound left next : Word} (h : pollFlag coco bound left = .again next)
    (hleft : left = bound ∨ WaitInv bound left) : WaitInv bound next := by
  unfold pollFlag at h
  split at h
  · cases h
  · split at h
    · cases h
      rename_i hb
      subst hb
      rcases hleft with rfl | ⟨-, hl⟩ | ⟨-, hlt⟩
      · exact .inl ⟨rfl, rfl⟩
      · exact .inl ⟨rfl, hl⟩
      · simp at hlt
    · rename_i hb
      split at h <;> cases h
      rename_i hne
      refine .inr ⟨hne, ?_⟩
      have hle : left.toNat ≤ bound.toNat := by
        rcases hleft with rfl | ⟨hz, -⟩ | ⟨-, hlt⟩
        · exact Nat.le_refl _
        · exact absurd hz hb
        · exact hlt.le
      have hpos : left ≠ 0#32 := by
        rcases hleft with rfl | ⟨hz, -⟩ | ⟨hl, -⟩
        · exact hb
        · exact absurd hz hb
        · exact hl
      bv_omega

theorem readSlot_of_up {s : State} (h : s.gateAdc = true) (sl : Slot) :
    readSlot sl s = .ok (resultValue sl s, afterRead sl s) :=
  gatedAdc_of_up h _

theorem readSlot_ok_iff {sl : Slot} {s : State} {r : Word × State} :
    readSlot sl s = .ok r ↔ s.gateAdc = true ∧ (resultValue sl s, afterRead sl s) = r :=
  gated_ok_iff

/-- An idle slot gives its result, and no free value is drawn (42_conversion_sequencer.md R107). -/
theorem resultValue_of_idle {sl : Slot} {s : State} (h : (s.conv sl).busy = false) :
    resultValue sl s = (s.conv sl).result.setWidth 32 := by
  simp [resultValue, h]

theorem afterRead_of_idle {sl : Slot} {s : State} (h : (s.conv sl).busy = false) :
    afterRead sl s = s.setConv sl { s.conv sl with coco := (s.conv sl).coco && !s.cfg.cocoClearOnRead } := by
  cases sl <;> simp [afterRead, h, State.setConv]

theorem conv_afterRead (sl sm : Slot) (s : State) :
    (afterRead sl s).conv sm =
      if sm = sl then { s.conv sl with coco := (s.conv sl).coco && !s.cfg.cocoClearOnRead } else s.conv sm := by
  rw [← conv_setConv]
  cases sm <;> rfl

/-! ### What `RALWR` stores -/

theorem ralStore_of_rw {f : Field} (hrw : fieldAcc f = .rw) (hch : ∀ sl, f ≠ .adCh sl) (v : Word) (s : State) :
    ralStore f v s = putField f v s := by
  have hstart : startsConversion f = none := by
    cases f with
    | adCh sl => exact absurd rfl (hch sl)
    | _ => rfl
  simp [ralStore, hrw, hstart, fieldWrite_eq hrw]

theorem ralStore_adCh (sl : Slot) (v : Word) (s : State) :
    ralStore (.adCh sl) v s = s.setConv sl ((s.conv sl).start (v.setWidth 5)) :=
  startConversion_fieldWrite_adCh sl v s

theorem ralStore_tIf (c : Chan) (v : Word) (s : State) :
    ralStore (.tIf c) v s = s.setTimer c { s.timer c with flag := (s.timer c).flag && !v.getLsbD 0 } := by
  simp [ralStore, fieldAcc, putField, getField]

theorem ralStore_stErr (v : Word) (s : State) :
    ralStore .stErr v s = { s with stErr := s.stErr &&& ~~~v.setWidth 7 } := by
  have hbits : (s.stErr.setWidth 32 &&& ~~~v).setWidth 7 = s.stErr &&& ~~~v.setWidth 7 := by
    apply BitVec.eq_of_getLsbD_eq
    intro i hi
    simp [show i < 32 by omega, hi]
  simp [ralStore, fieldAcc, putField, getField, hbits]

/-- The field that a `RALWR` can write is a read-write field or one of the three write-1-to-clear ones. -/
theorem writable_cases {f : Field} (h : fieldAcc f ≠ .ro) :
    (∃ sl, f = .adCh sl) ∨ (∃ c, f = .tIf c) ∨ f = .stErr ∨ (fieldAcc f = .rw ∧ ∀ sl, f ≠ .adCh sl) := by
  cases f with
  | adCh sl => exact .inl ⟨sl, rfl⟩
  | tIf c => exact .inr (.inl ⟨c, rfl⟩)
  | stErr => exact .inr (.inr (.inl rfl))
  | adCoco | adR | tick | outLevel | stLast => exact absurd rfl h
  | _ => exact .inr (.inr (.inr ⟨rfl, nofun⟩))

theorem exec_ralwr_of_legal {fid : Nat} {f : Field} {v : Word} {s : State} (hf : fieldOf fid = some f)
    (hacc : fieldAcc f ≠ .ro) (hgate : ∀ g, regGate (fieldReg f) = some g → s.gate g = true)
    (hv : fieldLegal f v = true) :
    exec (.ralwr fid v) s = .next (respond .ok 0#32 (ralStore f v s)) := by
  simp [exec, execRalwr, hf, hacc, gatedField_of_up hgate, hv]

/-! ### What a micro-step of each operation can leave -/

section
variable {s t : State}

theorem gatedField_ok {α : Type} {f : Field} {a b : α} (h : gatedField f s a = .ok b) : a = b := by
  unfold gatedField at h
  split at h
  · exact (gated_ok_iff.mp h).2
  · cases h; rfl

theorem exec_ralwr_next {fid : Nat} {v : Word} (h : exec (.ralwr fid v) s = .next t) :
    (∃ st, t = respond st 0#32 s) ∨ ∃ f, fieldOf fid = some f ∧ fieldAcc f ≠ .ro ∧ fieldLegal f v = true ∧
      t = respond .ok 0#32 (ralStore f v s) := by
  simp only [exec, execRalwr] at h
  split at h
  · cases h; exact .inl ⟨_, rfl⟩
  · rename_i f hf
    split at h
    · cases h; exact .inl ⟨_, rfl⟩
    · rename_i hacc
      obtain rfl := gatedField_ok (finish_next_iff.mp h)
      split
      · exact .inr ⟨f, hf, hacc, ‹_›, rfl⟩
      · exact .inl ⟨_, rfl⟩

theorem exec_ralrd_next {fid : Nat} (h : exec (.ralrd fid) s = .next t) : ∃ st d, t = respond st d s := by
  simp only [exec, execRalrd] at h
  split at h
  · cases h; exact ⟨_, _, rfl⟩
  · obtain rfl := gatedField_ok (finish_next_iff.mp h)
    exact ⟨_, _, rfl⟩

theorem writeLoad_ok {c : Chan} {w : Word} (h : writeLoad c w s = .ok t) :
    t = s.setTimer c { s.timer c with load := w } := by
  rw [← (gated_ok_iff.mp h).2, regWrite_tLoad]

theorem writeChain_ok {c : Chan} {b : Bool} (h : writeChain c b s = .ok t) :
    t = s.setTimer c { s.timer c with chn := b } := by
  rw [← (gated_ok_iff.mp h).2, fieldWrite_tChn]

theorem writeArm_ok {c : Chan} {b : Bool} (h : writeArm c b s = .ok t) :
    t = s.setTimer c { s.timer c with ie := b } := by
  rw [← (gated_ok_iff.mp h).2, fieldWrite_tIe]

theorem writeRunState_ok {c : Chan} {b : Bool} (h : writeRunState c b s = .ok t) :
    t = s.setTimer c { s.timer c with en := b } := by
  rw [← (gated_ok_iff.mp h).2, fieldWrite_tEn]

/-- The positions of `TCFG` after its first micro-step. -/
def IsTcfgPosition (k : Micro) : Prop := k = .tcfgChain ∨ k = .tcfgArm ∨ k = .tcfgRespond

theorem exec_tcfg_next {ch : Nat} {load : Word} {chained ie : Bool} (h : exec (.tcfg ch load chained ie) s = .next t) :
    (∃ st, t = respond st 0#32 s) ∨
      ∃ c v k, chanOf ch = some c ∧ IsTcfgPosition k ∧ t = advance k (s.setTimer c v) := by
  simp only [exec, execTcfg] at h
  split at h
  · cases h; exact .inl ⟨_, rfl⟩
  · rename_i c hc
    split at h
    · obtain ⟨u, hu, rfl⟩ := map_ok_iff.mp (finish_next_iff.mp h)
      exact .inr ⟨c, _, _, hc, .inr (.inl rfl), by rw [writeChain_ok hu]⟩
    · obtain ⟨u, hu, rfl⟩ := map_ok_iff.mp (finish_next_iff.mp h)
      exact .inr ⟨c, _, _, hc, .inr (.inr rfl), by rw [writeArm_ok hu]⟩
    · cases h; exact .inl ⟨_, rfl⟩
    · obtain ⟨u, hu, rfl⟩ := map_ok_iff.mp (finish_next_iff.mp h)
      exact .inr ⟨c, _, _, hc, .inl rfl, by rw [writeLoad_ok hu]⟩

/-- A rejected start leaves the channel as it was. -/
theorem exec_tstart_next {ch : Nat} (h : exec (.tstart ch) s = .next t) :
    ∃ st c v, t = respond st 0#32 (s.setTimer c v) := by
  simp only [exec, execTstart] at h
  split at h
  · cases h; exact ⟨.invalidChannelIndex, .ch0, s.timer .ch0, by rw [setTimer_timer]⟩
  · obtain ⟨u, hu, rfl⟩ := map_ok_iff.mp (finish_next_iff.mp h)
    exact ⟨_, _, _, by rw [writeRunState_ok hu]⟩

theorem exec_tstop_next {ch : Nat} (h : exec (.tstop ch) s = .next t) :
    ∃ st c v, t = respond st 0#32 (s.setTimer c v) := by
  simp only [exec, execTstop] at h
  split at h
  · cases h; exact ⟨.invalidChannelIndex, .ch0, s.timer .ch0, by rw [setTimer_timer]⟩
  · obtain ⟨u, hu, rfl⟩ := map_ok_iff.mp (finish_next_iff.mp h)
    exact ⟨_, _, _, by rw [writeRunState_ok hu]⟩

theorem exec_adsel_next {slot code : Nat} {diff : Bool} (h : exec (.adsel slot code diff) s = .next t) :
    (∃ st, t = respond st 0#32 s) ∨ ∃ sl, slotOf slot = some sl ∧
      ((s.bg = .exec .adselCode ∧ ∃ st d c, t = respond st d (s.setConv sl ((s.conv sl).start c))) ∨
        t = advance .adselCode (s.setConv sl { s.conv sl with diff := diff })) := by
  simp only [exec, execAdsel] at h
  split at h
  · cases h; exact .inl ⟨_, rfl⟩
  · rename_i sl hsl
    refine .inr ⟨sl, hsl, ?_⟩
    split at h
    · rename_i hbg
      obtain ⟨u, hu, rfl⟩ := map_ok_iff.mp (finish_next_iff.mp h)
      exact .inl ⟨hbg, _, _, _, by rw [(selectCode_ok_iff.mp hu).2]⟩
    · obtain ⟨u, hu, rfl⟩ := map_ok_iff.mp (finish_next_iff.mp h)
      exact .inr (by rw [(selectMode_ok_iff.mp hu).2])

/-- A poll answers or goes on; what goes on is a wait in progress if a later poll came from one. -/
theorem exec_adwait_next {slot : Nat} (h : exec (.adwait slot) s = .next t) :
    (∃ st, t = respond st 0#32 s) ∨ ∃ bound left, slotOf slot ≠ none ∧ t = advance (.adwaitPoll bound left) s ∧
      ((∀ b l, s.bg = .exec (.adwaitPoll b l) → WaitInv b l) → WaitInv bound left) := by
  simp only [exec, execAdwait] at h
  split at h
  · cases h; exact .inl ⟨_, rfl⟩
  · rename_i sl hsl
    have hvalid : slotOf slot ≠ none := by rw [hsl]; nofun
    split at h
    · rename_i bound left hbg
      obtain ⟨p, hp, rfl⟩ := map_ok_iff.mp (finish_next_iff.mp h)
      cases p with
      | ended st => exact .inl ⟨_, rfl⟩
      | again next =>
        exact .inr ⟨bound, next, hvalid, rfl,
          fun hwait => pollFlag_again (pollSlot_ok_iff.mp hp).2 (.inr (hwait _ _ hbg))⟩
    · obtain ⟨p, hp, rfl⟩ := map_ok_iff.mp (finish_next_iff.mp h)
      cases p with
      | ended st => exact .inl ⟨_, rfl⟩
      | again next =>
        exact .inr ⟨s.adTmo, next, hvalid, rfl, fun _ => pollFlag_again (pollSlot_ok_iff.mp hp).2 (.inl rfl)⟩

theorem exec_adread_next {slot : Nat} (h : exec (.adread slot) s = .next t) :
    (∃ st, t = respond st 0#32 s) ∨ ∃ sl d, slotOf slot = some sl ∧ t = respond .ok d (afterRead sl s) := by
  simp only [exec, execAdread] at h
  split at h
  · cases h; exact .inl ⟨_, rfl⟩
  · rename_i sl hsl
    obtain ⟨r, hr, rfl⟩ := map_ok_iff.mp (finish_next_iff.mp h)
    exact .inr ⟨sl, _, hsl, by rw [← (readSlot_ok_iff.mp hr).2]⟩

theorem driveStep_ok (h : driveStep s = .ok t) : t = { s with pin := s.outLevel } := by
  rw [← (gated_ok_iff.mp h).2, fieldWrite_pin]

theorem exec_pwmupd_next (h : exec .pwmupd s = .next t) :
    t = advance .pwmPin (compareStep s) ∨ t = respond .ok 0#32 { s with pin := s.outLevel } := by
  simp only [exec, execPwmupd] at h
  split at h
  · obtain ⟨u, hu, rfl⟩ := map_ok_iff.mp (finish_next_iff.mp h)
    exact .inr (by rw [driveStep_ok hu])
  · exact .inl (gated_ok_iff.mp (finish_next_iff.mp h)).2.symm

/-- A position that is not one of the loop's starts the iteration (log 19). -/
theorem exec_loopit_next (h : exec .loopit s = .next t) :
    ∃ p r, loopStep p s = .ok r ∧ t = loopitAfter r ∧ (s.bg = .exec (.loop p) ∨ p = .line0) := by
  simp only [exec, execLoopit] at h
  split at h
  · obtain ⟨r, hr, rfl⟩ := map_ok_iff.mp (finish_next_iff.mp h)
    exact ⟨_, r, hr, rfl, .inl ‹_›⟩
  · obtain ⟨r, hr, rfl⟩ := map_ok_iff.mp (finish_next_iff.mp h)
    exact ⟨_, r, hr, rfl, .inr rfl⟩

theorem exec_run_next (h : exec .run s = .next t) :
    (∃ p r, s.bg = .run p ∧ loopStep p s = .ok r ∧ t = runAfter r) ∨ t = { s with bg := .run .line0 } := by
  simp only [exec, execRun] at h
  split at h
  · obtain ⟨r, hr, rfl⟩ := map_ok_iff.mp (finish_next_iff.mp h)
    exact .inl ⟨_, r, ‹_›, hr, rfl⟩
  · cases h; exact .inr rfl

theorem exec_init_next {a : InitArgs} (h : exec (.init a) s = .next t) :
    (∃ p, s.bg = .exec (.init p) ∧ initStep a p s = .ok t) ∨ (allPresent a = true ∧ t = initGoto .line1 s) ∨
      t = respond .nullConfiguration 0#32 s := by
  simp only [exec, execInit] at h
  split at h
  · exact .inl ⟨_, ‹_›, finish_next_iff.mp h⟩
  · split at h <;> cases h
    · exact .inr (.inl ⟨‹_›, rfl⟩)
    · exact .inr (.inr rfl)

end

end Sys2Proof.Machine
end

section
/-! PROOFS. The duty map and the comparator as functions (43_control_loop.md): `duty` is monotone and clamped (R115), and
how many ticks of a cycle are active (R130). -/

namespace Sys2Proof.Machine

open Sys2Proof

/-! ### The duty map -/

theorem dutyOf_low {cfg : Config} {v : Nat} (h : v ≤ cfg.tLow) : dutyOf cfg v = 0 := if_pos h

theorem dutyOf_high {cfg : Config} {v : Nat} (h : cfg.tHigh ≤ v) : dutyOf cfg v = 100 := by
  have hthresholds := cfg.legal.1
  rw [dutyOf, if_neg (by omega), if_pos h]

theorem dutyOf_between {cfg : Config} {v : Nat} (hlow : cfg.tLow < v) (hhigh : v < cfg.tHigh) :
    dutyOf cfg v = (v - cfg.tLow) * 100 / (cfg.tHigh - cfg.tLow) := by
  rw [dutyOf, if_neg (by omega), if_neg (by omega)]

/-- Between the thresholds the truncating division stays below 100. -/
theorem dutyOf_between_le {cfg : Config} {v : Nat} (hlow : cfg.tLow < v) (hhigh : v < cfg.tHigh) :
    dutyOf cfg v ≤ 99 := by
  rw [dutyOf_between hlow hhigh]
  exact Nat.le_of_lt_succ (Nat.div_lt_of_lt_mul (by omega))

/-- The three regions of the map (43_control_loop.md R114). -/
theorem duty_regions (cfg : Config) (v : Nat) :
    v ≤ cfg.tLow ∨ cfg.tHigh ≤ v ∨ (cfg.tLow < v ∧ v < cfg.tHigh) := by
  omega

theorem dutyOf_le (cfg : Config) (v : Nat) : dutyOf cfg v ≤ 100 := by
  obtain h | h | ⟨hlow, hhigh⟩ := duty_regions cfg v
  · rw [dutyOf_low h]; decide
  · rw [dutyOf_high h]
  · exact (dutyOf_between_le hlow hhigh).trans (by decide)

theorem dutyOf_mono (cfg : Config) {v w : Nat} (h : v ≤ w) : dutyOf cfg v ≤ dutyOf cfg w := by
  obtain hv | hv | ⟨hlow, hhigh⟩ := duty_regions cfg v
  · rw [dutyOf_low hv]; exact Nat.zero_le _
  · rw [dutyOf_high hv, dutyOf_high (hv.trans h)]
  · obtain hw | hw | ⟨hlow', hhigh'⟩ := duty_regions cfg w
    · omega
    · rw [dutyOf_high hw]; exact dutyOf_le cfg v
    · rw [dutyOf_between hlow hhigh, dutyOf_between hlow' hhigh']
      exact Nat.div_le_div_right (Nat.mul_le_mul_right 100 (by omega))

/-- Settles O33: the three facts of the three regions. -/
theorem dutyIsMonotoneAndClamped : Obligations.DutyIsMonotoneAndClamped :=
  fun cfg => ⟨fun _ _ => dutyOf_mono cfg, dutyOf_le cfg, fun _ => dutyOf_between_le⟩

/-! ### The comparator over a cycle -/

/-- The level tells active from inactive in either wiring (43_control_loop.md R120). -/
theorem levelOf_eq_active_iff (cfg : Config) (t d : Nat) : levelOf cfg t d = cfg.activeLevel ↔ d ≠ 0 ∧ t ≤ d := by
  by_cases h : d ≠ 0 ∧ t ≤ d
  · simp [levelOf, isActive, h]
  · simp [levelOf, isActive, h]

/-- At duty 0 the level is inactive whatever the tick is (90_conflicts.md C1). -/
theorem levelOf_zero (cfg : Config) (t : Nat) : levelOf cfg t 0 = !cfg.activeLevel := rfl

theorem length_filter_le_range (d n : Nat) : ((List.range n).filter fun t => decide (t ≤ d)).length = min n (d + 1) := by
  induction n with
  | zero => simp
  | succ n ih =>
    rw [List.range_succ, List.filter_append, List.length_append, ih]
    by_cases h : n ≤ d
    · simp [h]; omega
    · simp [h]; omega

/-- Settles O35: at duty 0 no tick is active, and above it the active ticks are those up to the duty. -/
theorem activeTicksPerCycle : Obligations.ActiveTicksPerCycle := by
  intro cfg d hd
  simp only [levelOf_eq_active_iff]
  by_cases hzero : d = 0
  · simp [hzero]
  · simp only [ne_eq, hzero, not_false_eq_true, true_and, if_false, length_filter_le_range]
    split <;> omega

end Sys2Proof.Machine
end

section
/-! PROOFS. What one micro-step of the background context can do to the registers that the invariant and the
sole-writer statements speak of, and where it can leave the position: said once, for every operation. -/

namespace Sys2Proof.Machine

open Sys2Proof

/-! ### The lines of an iteration, inverted -/

/-- The position polls slot `sl` next, with the select's status `s1`. -/
def PollsAt (p : LoopPos) (sl : Slot) (s1 : Status) : Prop := p = .wait sl s1 ∨ ∃ b l, p = .poll sl s1 b l

/-- What each line of an iteration leaves when it goes on (43_control_loop.md R121, R122). -/
inductive LoopLine (s : State) : LoopPos → LoopNext → State → Prop
  | line0 : LoopLine s .line0 (.goto (.select s.lpSlot s.lpCode s.lpDiff)) s
  | badSlot {slot c : Byte} {m : Bool} (h : slotOf slot.toNat = none) :
      LoopLine s (.select slot c m) (.goto (.duty .invalidChannelIndex .invalidChannelIndex 0#32))
        (note .invalidChannelIndex s)
  | select {slot c : Byte} {m : Bool} {sl : Slot} (h : slotOf slot.toNat = some sl) :
      LoopLine s (.select slot c m) (.goto (.code sl c m)) (s.setConv sl { s.conv sl with diff := m })
  | code {sl : Slot} {c : Byte} {m : Bool} :
      LoopLine s (.code sl c m) (.goto (.wait sl (selectStatus s.cfg c.toNat m)))
        (note (selectStatus s.cfg c.toNat m)
          (s.setConv sl ((s.conv sl).start (BitVec.ofNat 5 (resolve s.cfg c.toNat m)))))
  | found {p : LoopPos} {sl : Slot} {s1 : Status} (hp : PollsAt p sl s1) (hflag : (s.conv sl).coco = true) :
      LoopLine s p (.goto (.read sl s1)) s
  | timedOut {p : LoopPos} {sl : Slot} {s1 : Status} (hp : PollsAt p sl s1) :
      LoopLine s p (.goto (.duty s1 .conversionTimeout 0#32)) (note .conversionTimeout s)
  | again {p : LoopPos} {sl : Slot} {s1 : Status} {bound left : Word} (hp : PollsAt p sl s1)
      (hwait : (∀ b l, p = .poll sl s1 b l → WaitInv b l) → WaitInv bound left) :
      LoopLine s p (.goto (.poll sl s1 bound left)) s
  | read {sl : Slot} {s1 : Status} :
      LoopLine s (.read sl s1) (.goto (.duty s1 .ok (resultValue sl s))) (afterRead sl s)
  | duty {s1 s2 : Status} {v : Word} :
      LoopLine s (.duty s1 s2 v) (.goto (.compare (loopStatus s1 s2))) (writeDuty s2 v s)
  | compare {st : Status} : LoopLine s (.compare st) (.goto (.drive st)) (compareStep s)
  | drive {st : Status} : LoopLine s (.drive st) (.ended st) { s with pin := s.outLevel }

/-- What a poll's finding leads to, for either poll of an iteration. -/
theorem loopLine_of_poll {p : LoopPos} {sl : Slot} {s1 : Status} {bound left : Word} {s : State}
    (hp : PollsAt p sl s1)
    (hleft : (∀ b l, p = .poll sl s1 b l → WaitInv b l) → left = bound ∨ WaitInv bound left) :
    LoopLine s p (afterLoopPoll sl s1 bound s (pollFlag (s.conv sl).coco bound left)).1
      (afterLoopPoll sl s1 bound s (pollFlag (s.conv sl).coco bound left)).2 := by
  cases hpoll : pollFlag (s.conv sl).coco bound left with
  | ended st =>
    obtain ⟨rfl, hflag⟩ | ⟨rfl, -⟩ := pollFlag_ended hpoll
    · exact .found hp hflag
    · exact .timedOut hp
  | again next => exact .again hp fun hwait => pollFlag_again hpoll (hleft hwait)

theorem loopLine_of_loopStep {p : LoopPos} {s t : State} {n : LoopNext} (h : loopStep p s = .ok (n, t)) :
    LoopLine s p n t := by
  cases p with
  | line0 => cases h; exact .line0
  | select slot c m =>
    simp only [loopStep] at h
    split at h
    · cases h; exact .badSlot ‹_›
    · obtain ⟨u, hu, he⟩ := map_ok_iff.mp h
      cases he
      rw [(selectMode_ok_iff.mp hu).2]
      exact .select ‹_›
  | code sl c m =>
    obtain ⟨u, hu, he⟩ := map_ok_iff.mp h
    cases he
    rw [(selectCode_ok_iff.mp hu).2]
    exact .code
  | wait sl s1 =>
    obtain ⟨a, ha, he⟩ := map_ok_iff.mp h
    obtain rfl := (pollSlot_ok_iff.mp ha).2
    have hline := loopLine_of_poll (s := s) (bound := s.adTmo) (.inl rfl : PollsAt (.wait sl s1) sl s1) fun _ => .inl rfl
    rwa [he] at hline
  | poll sl s1 bound left =>
    obtain ⟨a, ha, he⟩ := map_ok_iff.mp h
    obtain rfl := (pollSlot_ok_iff.mp ha).2
    have hline := loopLine_of_poll (s := s) (.inr ⟨bound, left, rfl⟩ : PollsAt (.poll sl s1 bound left) sl s1)
      fun hwait => .inr (hwait bound left rfl)
    rwa [he] at hline
  | read sl s1 =>
    obtain ⟨r, hr, he⟩ := map_ok_iff.mp h
    obtain rfl := (readSlot_ok_iff.mp hr).2
    cases he
    exact .read
  | duty s1 s2 v => cases h; exact .duty
  | compare st => cases h; exact .compare
  | drive st =>
    obtain ⟨u, hu, he⟩ := map_ok_iff.mp h
    cases he
    rw [driveStep_ok hu]
    exact .drive

/-! ### Writes -/

/-- `u` is `s` but for writes that leave the conversions, the statuses and the bound of `DUTY` alone. -/
structure Quiet (s u : State) : Prop where
  coco : ∀ sl, (u.conv sl).coco = (s.conv sl).coco
  busy : ∀ sl, (u.conv sl).busy = (s.conv sl).busy
  ch : ∀ sl, (u.conv sl).ch = (s.conv sl).ch
  stErr : u.stErr = s.stErr
  stLast : u.stLast = s.stLast
  duty : s.duty.toNat ≤ 100 → u.duty.toNat ≤ 100

theorem Quiet.refl (s : State) : Quiet s s := ⟨fun _ => rfl, fun _ => rfl, fun _ => rfl, rfl, rfl, id⟩

/-- An update that touches neither slots nor `DUTY` nor the statuses is quiet. -/
theorem Quiet.of_eq {s u : State} (hA : u.adA = s.adA) (hB : u.adB = s.adB) (herr : u.stErr = s.stErr)
    (hlast : u.stLast = s.stLast) (hduty : s.duty.toNat ≤ 100 → u.duty.toNat ≤ 100) : Quiet s u := by
  have hconv : ∀ sl, u.conv sl = s.conv sl := by
    intro sl
    cases sl with
    | a => exact hA
    | b => exact hB
  exact ⟨fun sl => by rw [hconv], fun sl => by rw [hconv], fun sl => by rw [hconv], herr, hlast, hduty⟩

theorem quiet_setTimer (c : Chan) (v : TimerChannel) (s : State) : Quiet s (s.setTimer c v) :=
  .of_eq (State.setTimer_adA c v s) (State.setTimer_adB c v s) (State.setTimer_stErr c v s)
    (State.setTimer_stLast c v s) (by rw [State.setTimer_duty]; exact id)

theorem quiet_setConv {sl : Slot} {v : ConvSlot} {s : State} (hcoco : v.coco = (s.conv sl).coco)
    (hbusy : v.busy = (s.conv sl).busy) (hch : v.ch = (s.conv sl).ch) : Quiet s (s.setConv sl v) := by
  refine ⟨fun sm => ?_, fun sm => ?_, fun sm => ?_, by simp, by simp, by simp⟩ <;>
    by_cases h : sm = sl <;> simp [*]

/-- A read-write field other than a code, written with a legal value. -/
theorem quiet_putField {f : Field} {v : Word} (hrw : fieldAcc f = .rw) (hch : ∀ sl, f ≠ .adCh sl)
    (hlegal : fieldLegal f v = true) (s : State) : Quiet s (putField f v s) := by
  cases f with
  | adCh sl => exact absurd rfl (hch sl)
  | tLoad c | tEn c | tIe c | tChn c => exact quiet_setTimer c _ s
  | adDiff sl | adIen sl => exact quiet_setConv rfl rfl rfl
  | tIf | stErr | adCoco | adR | tick | outLevel | stLast => cases hrw
  | duty =>
    refine .of_eq rfl rfl rfl rfl fun _ => ?_
    have hv : v.toNat ≤ 100 := by simpa [fieldLegal, fieldAcc] using hlegal
    rw [putField, BitVec.toNat_setWidth, Nat.mod_eq_of_lt (by omega)]
    exact hv
  | _ => exact .of_eq rfl rfl rfl rfl id

/-- Everything that a background micro-step can write, but for the response and the noted statuses. -/
inductive Writes (s : State) : State → Prop
  | quiet {u : State} (h : Quiet s u) : Writes s u
  | start {sl : Slot} (code : BitVec 5) (h : WritesCode sl s) : Writes s (s.setConv sl ((s.conv sl).start code))
  | read {sl : Slot} (h : ReadsResult sl s) : Writes s (afterRead sl s)
  | clear {v : Word} (h : decode (latched s) = .ok (.ralwr 0x81 v)) :
      Writes s { s with stErr := s.stErr &&& ~~~v.setWidth 7 }

/-- How a background micro-step ends: with the response, with a status noted and a position to go on from, or at the
end of an iteration of `RUN`. -/
inductive Moves (u : State) : State → Prop
  | respond (st : Status) (d : Word) : Moves u (respond st d u)
  | goto (st : Status) {p : Bg} (h : p ≠ .idle) : Moves u { note st u with bg := p }
  | back (st : Status) : Moves u (nextIteration st u)

/-- A micro-step of the background context. -/
def Effect (s t : State) : Prop := ∃ u, Writes s u ∧ Moves u t

@[simp] theorem note_ok (s : State) : note .ok s = s := by
  simp [note, stickyBit]

theorem Moves.advance (k : Micro) (u : State) : Moves u (advance k u) := by
  have hmove := Moves.goto (u := u) .ok (p := .exec k) nofun
  rwa [note_ok] at hmove

theorem Moves.run (p : LoopPos) (u : State) : Moves u { u with bg := .run p } := by
  have hmove := Moves.goto (u := u) .ok (p := .run p) nofun
  rwa [note_ok] at hmove

/-! ### The effect of each operation -/

theorem effect_respond (st : Status) (d : Word) (s : State) : Effect s (respond st d s) :=
  ⟨s, .quiet (.refl s), .respond st d⟩

theorem fieldOf_stErr {fid : Nat} (h : fieldOf fid = some .stErr) : fid = 0x81 := by
  unfold fieldOf at h
  split at h
  case h_35 => rfl
  all_goals cases h

section
variable {s t : State}

theorem effect_ralwr {fid : Nat} {v : Word} {k : Micro} (hbg : s.bg = .exec k)
    (hdecode : decode (latched s) = .ok (.ralwr fid v)) (h : exec (.ralwr fid v) s = .next t) : Effect s t := by
  obtain ⟨st, rfl⟩ | ⟨f, hf, hacc, hlegal, rfl⟩ := exec_ralwr_next h
  · exact effect_respond _ _ s
  · refine ⟨_, ?_, .respond _ _⟩
    obtain ⟨sl, rfl⟩ | ⟨c, rfl⟩ | rfl | ⟨hrw, hch⟩ := writable_cases hacc
    · rw [ralStore_adCh]
      refine .start _ ?_
      rw [WritesCode, hbg]
      exact .inl ⟨fid, v, hdecode, hf, hlegal⟩
    · rw [ralStore_tIf]
      exact .quiet (quiet_setTimer _ _ s)
    · rw [ralStore_stErr]
      exact .clear (fieldOf_stErr hf ▸ hdecode)
    · rw [ralStore_of_rw hrw hch]
      exact .quiet (quiet_putField hrw hch hlegal s)

theorem effect_adsel {slot code : Nat} {diff : Bool}
    (hdecode : decode (latched s) = .ok (.adsel slot code diff)) (h : exec (.adsel slot code diff) s = .next t) :
    Effect s t := by
  obtain ⟨st, rfl⟩ | ⟨sl, hsl, ⟨hcode, st, d, c, rfl⟩ | rfl⟩ := exec_adsel_next h
  · exact effect_respond _ _ s
  · refine ⟨_, .start c ?_, .respond st d⟩
    rw [WritesCode, hcode]
    exact .inr (.inl ⟨slot, code, diff, hdecode, hsl, rfl⟩)
  · exact ⟨_, .quiet (quiet_setConv (v := { s.conv sl with diff := diff }) rfl rfl rfl), .advance _ _⟩

theorem effect_adread {slot : Nat} {k : Micro} (hbg : s.bg = .exec k)
    (hdecode : decode (latched s) = .ok (.adread slot)) (h : exec (.adread slot) s = .next t) : Effect s t := by
  obtain ⟨st, rfl⟩ | ⟨sl, d, hsl, rfl⟩ := exec_adread_next h
  · exact effect_respond _ _ s
  · refine ⟨_, .read (sl := sl) ?_, .respond _ _⟩
    rw [ReadsResult, hbg]
    exact .inl ⟨slot, hdecode, hsl⟩

theorem writeDuty_toNat_le (s2 : Status) (v : Word) (s : State) : (writeDuty s2 v s).duty.toNat ≤ 100 := by
  simp only [writeDuty]
  split
  · rw [BitVec.toNat_ofNat]
    exact (Nat.mod_le _ _).trans (dutyOf_le _ _)
  · decide

/-- A line of an iteration: it notes a status at most, and the last one ends the iteration. -/
theorem LoopLine.effect {p : LoopPos} {n : LoopNext} (h : LoopLine s p n t)
    (hcode : ∀ sl c m, p = .code sl c m → WritesCode sl s) (hread : ∀ sl s1, p = .read sl s1 → ReadsResult sl s) :
    (∃ q st u, n = .goto q ∧ t = note st u ∧ Writes s u) ∨ ∃ st, n = .ended st ∧ Writes s t := by
  have hgoes : ∀ q u, Writes s u → (∃ q' st u', LoopNext.goto q = .goto q' ∧ u = note st u' ∧ Writes s u') ∨
      ∃ st, LoopNext.goto q = .ended st ∧ Writes s u :=
    fun q u hu => .inl ⟨q, .ok, u, rfl, (note_ok u).symm, hu⟩
  cases h with
  | line0 => exact hgoes _ _ (.quiet (.refl s))
  | badSlot => exact .inl ⟨_, _, s, rfl, rfl, .quiet (.refl s)⟩
  | select => exact hgoes _ _ (.quiet (quiet_setConv rfl rfl rfl))
  | code => exact .inl ⟨_, _, _, rfl, rfl, .start _ (hcode _ _ _ rfl)⟩
  | found => exact hgoes _ _ (.quiet (.refl s))
  | timedOut => exact .inl ⟨_, _, s, rfl, rfl, .quiet (.refl s)⟩
  | again => exact hgoes _ _ (.quiet (.refl s))
  | read => exact hgoes _ _ (.read (hread _ _ rfl))
  | duty => exact hgoes _ _ (.quiet (.of_eq rfl rfl rfl rfl fun _ => writeDuty_toNat_le _ _ s))
  | compare => exact hgoes _ _ (.quiet (.of_eq rfl rfl rfl rfl id))
  | drive => exact .inr ⟨_, rfl, .quiet (.of_eq rfl rfl rfl rfl id)⟩

theorem effect_loopit (hdecode : decode (latched s) = .ok .loopit) (h : exec .loopit s = .next t) : Effect s t := by
  obtain ⟨p, ⟨n, v⟩, hline, rfl, hp⟩ := exec_loopit_next h
  have hcode : ∀ sl c m, p = .code sl c m → WritesCode sl s := by
    rintro sl c m rfl
    rw [WritesCode, hp.resolve_right nofun]
    exact .inr (.inr (.inl ⟨c, m, hdecode, rfl⟩))
  have hread : ∀ sl s1, p = .read sl s1 → ReadsResult sl s := by
    rintro sl s1 rfl
    rw [ReadsResult, hp.resolve_right nofun]
    exact .inr ⟨s1, hdecode, rfl⟩
  obtain ⟨q, st, u, rfl, rfl, hw⟩ | ⟨st, rfl, hw⟩ := (loopLine_of_loopStep hline).effect hcode hread
  · exact ⟨u, hw, .goto st nofun⟩
  · exact ⟨v, hw, .respond st _⟩

theorem effect_run (h : exec .run s = .next t) : Effect s t := by
  obtain ⟨p', ⟨n, v⟩, hp, hline, rfl⟩ | rfl := exec_run_next h
  · have hcode : ∀ sl c m, p' = .code sl c m → WritesCode sl s := by
      rintro sl c m rfl
      rw [WritesCode, hp]
      exact ⟨c, m, rfl⟩
    have hread : ∀ sl s1, p' = .read sl s1 → ReadsResult sl s := by
      rintro sl s1 rfl
      rw [ReadsResult, hp]
      exact ⟨s1, rfl⟩
    obtain ⟨q, st, u, rfl, rfl, hw⟩ | ⟨st, rfl, hw⟩ := (loopLine_of_loopStep hline).effect hcode hread
    · exact ⟨u, hw, .goto st nofun⟩
    · exact ⟨v, hw, .back st⟩
  · exact ⟨s, .quiet (.refl s), .run _ s⟩

/-- A line of `INIT` notes a status at most and goes on to a line that fits the operands, or answers. What it writes is
quiet, but for the code of line 7 (43_control_loop.md R127). -/
theorem initStep_next {a : InitArgs} {p : InitPos} (h : initStep a p s = .ok t) :
    (∃ q st u, t = initGoto q (note st u) ∧ (InitInv a p → InitInv a q) ∧
      (Quiet s u ∨ ∃ sl c, p = .code sl ∧ u = s.setConv sl ((s.conv sl).start c))) ∨
      ∃ st, t = respond st 0#32 { s with cb := s.cfg.cbTick } := by
  have hgoes : ∀ q u, (InitInv a p → InitInv a q) → Quiet s u →
      ∃ q' st u', initGoto q u = initGoto q' (note st u') ∧ (InitInv a p → InitInv a q') ∧
        (Quiet s u' ∨ ∃ sl c, p = .code sl ∧ u' = s.setConv sl ((s.conv sl).start c)) :=
    fun q u hinv hu => ⟨q, .ok, u, by rw [note_ok], hinv, .inl hu⟩
  cases p with
  | line1 =>
    rw [← (gated_ok_iff.mp h).2, fieldWrite_adIclk]
    exact .inl (hgoes _ _ id (.of_eq rfl rfl rfl rfl id))
  | line2 =>
    rw [← (gated_ok_iff.mp h).2, fieldWrite_adDiv]
    exact .inl (hgoes _ _ id (.of_eq rfl rfl rfl rfl id))
  | line3 =>
    rw [← (gated_ok_iff.mp h).2, fieldWrite_adMode]
    exact .inl (hgoes _ _ id (.of_eq rfl rfl rfl rfl id))
  | line4 =>
    rw [← (gated_ok_iff.mp h).2, fieldWrite_adSmplt]
    exact .inl (hgoes _ _ id (.of_eq rfl rfl rfl rfl id))
  | line5 =>
    simp only [initStep] at h
    split at h
    · cases h; exact .inl (hgoes _ _ id (.refl s))
    · rw [← (gated_ok_iff.mp h).2, fieldWrite_adIen]
      exact .inl (hgoes _ _ id (quiet_setConv rfl rfl rfl))
  | line6 => cases h; exact .inl (hgoes _ _ id (.of_eq rfl rfl rfl rfl id))
  | select =>
    simp only [initStep] at h
    split at h
    · cases h
      exact .inl ⟨_, _, s, rfl, fun _ => ⟨.inr (.inl rfl), .inl rfl⟩, .inl (.refl s)⟩
    · obtain ⟨u, hu, rfl⟩ := map_ok_iff.mp h
      rw [(selectMode_ok_iff.mp hu).2]
      exact .inl (hgoes _ _ (fun _ => ‹_›) (quiet_setConv rfl rfl rfl))
  | code sl =>
    obtain ⟨u, hu, rfl⟩ := map_ok_iff.mp h
    refine .inl ⟨_, _, u, rfl, fun _ => ⟨?_, .inl rfl⟩, .inr ⟨sl, _, rfl, (selectCode_ok_iff.mp hu).2⟩⟩
    unfold selectStatus
    split
    · exact .inl rfl
    · exact .inr (.inr rfl)
  | load s1 =>
    simp only [initStep] at h
    split at h
    · cases h
      exact .inl ⟨_, _, s, rfl, fun hinv => ⟨hinv.1, .inr rfl⟩, .inl (.refl s)⟩
    · obtain ⟨u, hu, rfl⟩ := map_ok_iff.mp h
      rw [writeLoad_ok hu]
      exact .inl (hgoes _ _ (fun hinv => ⟨‹_›, hinv⟩) (quiet_setTimer _ _ s))
  | chain c s1 =>
    obtain ⟨u, hu, rfl⟩ := map_ok_iff.mp h
    rw [writeChain_ok hu]
    exact .inl (hgoes _ _ id (quiet_setTimer _ _ s))
  | arm c s1 =>
    obtain ⟨u, hu, rfl⟩ := map_ok_iff.mp h
    rw [writeArm_ok hu]
    exact .inl (hgoes _ _ And.right (quiet_setTimer _ _ s))
  | runState s1 s2 =>
    simp only [initStep] at h
    split at h
    · cases h; exact .inl (hgoes _ _ id (.refl s))
    · obtain ⟨u, hu, rfl⟩ := map_ok_iff.mp h
      rw [writeRunState_ok hu]
      exact .inl (hgoes _ _ id (quiet_setTimer _ _ s))
  | callback s1 s2 => cases h; exact .inr ⟨_, rfl⟩

theorem effect_init {a : InitArgs} (hdecode : decode (latched s) = .ok (.init a)) (h : exec (.init a) s = .next t) :
    Effect s t := by
  obtain ⟨p, hbg, hstep⟩ | ⟨-, rfl⟩ | rfl := exec_init_next h
  · obtain ⟨q, st, u, rfl, -, hu | ⟨sl, c, rfl, rfl⟩⟩ | ⟨st, rfl⟩ := initStep_next hstep
    · exact ⟨u, .quiet hu, .goto st nofun⟩
    · refine ⟨_, .start c ?_, .goto st nofun⟩
      rw [WritesCode, hbg]
      exact .inr (.inr (.inr ⟨a, hdecode, rfl⟩))
    · exact ⟨{ s with cb := s.cfg.cbTick }, .quiet (.of_eq rfl rfl rfl rfl id), .respond st _⟩
  · exact ⟨s, .quiet (.refl s), .advance _ s⟩
  · exact effect_respond _ _ s

/-- A micro-step of the latched command is an `Effect`. -/
theorem effect_exec {i : Instr} {k : Micro} (hbg : s.bg = .exec k) (hdecode : decode (latched s) = .ok i)
    (h : exec i s = .next t) : Effect s t := by
  cases i with
  | ralwr fid v => exact effect_ralwr hbg hdecode h
  | ralrd fid => obtain ⟨st, d, rfl⟩ := exec_ralrd_next h; exact effect_respond _ _ s
  | tcfg ch load chained ie =>
    obtain ⟨st, rfl⟩ | ⟨c, v, k, -, -, rfl⟩ := exec_tcfg_next h
    · exact effect_respond _ _ s
    · exact ⟨_, .quiet (quiet_setTimer c v s), .advance k _⟩
  | tstart ch =>
    obtain ⟨st, c, v, rfl⟩ := exec_tstart_next h
    exact ⟨_, .quiet (quiet_setTimer c v s), .respond st _⟩
  | tstop ch =>
    obtain ⟨st, c, v, rfl⟩ := exec_tstop_next h
    exact ⟨_, .quiet (quiet_setTimer c v s), .respond st _⟩
  | cbreg handle => cases h; exact ⟨{ s with cb := handle }, .quiet (.of_eq rfl rfl rfl rfl id), .respond _ _⟩
  | adsel slot code diff => exact effect_adsel hdecode h
  | adwait slot =>
    obtain ⟨st, rfl⟩ | ⟨b, l, -, rfl, -⟩ := exec_adwait_next h
    · exact effect_respond _ _ s
    · exact ⟨s, .quiet (.refl s), .advance _ s⟩
  | adread slot => exact effect_adread hbg hdecode h
  | dmap v => cases h; exact effect_respond _ _ s
  | pwmupd =>
    obtain rfl | rfl := exec_pwmupd_next h
    · exact ⟨compareStep s, .quiet (.of_eq rfl rfl rfl rfl id), .advance _ _⟩
    · exact ⟨{ s with pin := s.outLevel }, .quiet (.of_eq rfl rfl rfl rfl id), .respond _ _⟩
  | loopit => exact effect_loopit hdecode h
  | run => exact effect_run h
  | init a => exact effect_init hdecode h

/-- A move of the background context with a command in progress is an `Effect`. -/
theorem effect_backgroundStep (hbg : s.bg ≠ .idle) (h : backgroundStep s = .next t) : Effect s t := by
  unfold backgroundStep at h
  split at h
  · exact absurd ‹_› hbg
  · rename_i k hk
    unfold runLatched at h
    split at h
    · exact effect_exec hk ‹_› h
    · cases h; exact effect_respond _ _ s
  · exact effect_run h

theorem kept_backgroundStep (hbg : s.bg ≠ .idle) (h : backgroundStep s = .next t) : Kept s t := by
  unfold backgroundStep at h
  split at h
  · exact absurd ‹_› hbg
  · unfold runLatched at h
    split at h
    · exact kept_exec h
    · cases h; exact kept_respond _ _ s
  · exact kept_exec h

end

end Sys2Proof.Machine
end

section
/-! PROOFS. The invariant (10_state.md R43): a background micro-step keeps it by its `Effect` and its position, a line of
the dispatch by what it can do to `TICK` and to its own position, a turn of the outside world by its one write. -/

namespace Sys2Proof.Machine

open Sys2Proof

/-! ### The lines of the dispatch, inverted -/

theorem invoke_cases (s : State) :
    (s.cb = 0#32 ∧ invoke s = { s with isr := .line7 }) ∨
      (s.cb ≠ 0#32 ∧ s.cb = s.cfg.cbTick ∧ invoke s = { tickHandler s with isr := .line7 }) ∨
      (s.cb ≠ 0#32 ∧ s.cb ≠ s.cfg.cbTick ∧ invoke s = { s with isr := .waiting s.cb }) := by
  by_cases hzero : s.cb = 0#32
  · exact .inl ⟨hzero, if_pos hzero⟩
  · by_cases htick : s.cb = s.cfg.cbTick
    · exact .inr (.inl ⟨hzero, htick, by rw [invoke, if_neg hzero, if_pos htick]⟩)
    · exact .inr (.inr ⟨hzero, htick, by rw [invoke, if_neg hzero, if_neg htick]⟩)

/-- A line of the dispatch never goes back to line 1; only line 6 counts a tick or begins to wait. -/
theorem dispatchStep_next {s t : State} (h : dispatchStep s = .ok t) (hisr : s.isr ≠ .none) :
    t.isr ≠ .line1 ∧
      ((t.tick = s.tick ∧ ∀ w, t.isr = .waiting w → s.isr = .waiting w) ∨ (s.isr = .line6 ∧ t = invoke s)) := by
  unfold dispatchStep at h
  simp only [clearFlag_ch0, clearFlag_ch1] at h
  cases hpos : s.isr with
  | none => exact absurd hpos hisr
  | line1 | line2 | line5b =>
    simp only [hpos] at h
    obtain ⟨-, rfl⟩ := gated_ok_iff.mp h
    exact ⟨nofun, .inl ⟨rfl, nofun⟩⟩
  | line3 | line4 | line5 =>
    simp only [hpos] at h
    split at h
    · obtain ⟨-, rfl⟩ := gated_ok_iff.mp h
      exact ⟨nofun, .inl ⟨rfl, nofun⟩⟩
    · cases h
      exact ⟨nofun, .inl ⟨rfl, nofun⟩⟩
  | line6 =>
    simp only [hpos] at h
    cases h
    refine ⟨?_, .inr ⟨rfl, rfl⟩⟩
    obtain ⟨-, e⟩ | ⟨-, -, e⟩ | ⟨-, -, e⟩ := invoke_cases s <;> rw [e] <;> nofun
  | waiting w =>
    simp only [hpos] at h
    cases h
    rw [hpos]
    exact ⟨nofun, .inl ⟨rfl, fun _ => id⟩⟩
  | line7 =>
    simp only [hpos] at h
    cases h
    exact ⟨nofun, .inl ⟨rfl, nofun⟩⟩

/-- A turn of the interrupt context with none in progress: the entry at a high line, or nothing (60_exceptions.md R138,
R150). -/
theorem interruptTurn_of_none {s t : State} (hisr : s.isr = .none) (h : interruptTurn s = .ok t) :
    (irqLine s = true ∧ t = { s with isr := .line1 }) ∨ (irqLine s = false ∧ t = s) := by
  rw [interruptTurn, if_pos hisr] at h
  split at h
  · exact .inl ⟨‹_›, (takeInterrupt_ok_iff.mp h).2.symm⟩
  · cases h; exact .inr ⟨Bool.not_eq_true _ ▸ ‹_›, rfl⟩

theorem interruptTurn_of_dispatch {s : State} (hisr : s.isr ≠ .none) : interruptTurn s = dispatchStep s :=
  if_neg hisr

/-- The event `Spurious` starts a dispatch when it may, and does nothing otherwise (60_exceptions.md R140). -/
theorem spuriousTurn_next {s t : State} (h : spuriousTurn s = .ok t) :
    (s.isr = .none ∧ s.cfg.allowSpurious = true ∧ t = { s with isr := .line1 }) ∨ t = s := by
  unfold spuriousTurn at h
  split at h
  · rename_i hen
    exact .inl ⟨hen.1, hen.2, (takeInterrupt_ok_iff.mp h).2.symm⟩
  · cases h; exact .inr rfl

theorem tickHandler_tick_toNat {s : State} (h : s.tick.toNat < 100) :
    (tickHandler s).tick.toNat = (s.tick.toNat + 1) % 100 := by
  by_cases hwrap : s.tick.toNat + 1 = 100
  · simp [tickHandler, hwrap]
  · simp only [tickHandler, if_neg hwrap, BitVec.toNat_ofNat]
    omega

/-! ### The positions of the background context -/

theorem bgInv_of_idle {t : State} (h : t.bg = .idle) : BgInv t := by
  rw [BgInv, h]
  trivial

theorem bgInv_of_exec {t : State} {k : Micro} {i : Instr} (hbg : t.bg = .exec k) (hdecode : decode (latched t) = .ok i)
    (hk : MicroInv t i k) : BgInv t := by
  rw [BgInv, hbg]
  exact .inr ⟨i, hdecode, hk⟩

/-- What the promises of a position speak of: they survive when a slot keeps its select and its completion flag does
not fall. -/
structure LoopSame (s t : State) : Prop where
  select : ∀ sl s1, SelectInv (s.conv sl) s1 → SelectInv (t.conv sl) s1
  coco : ∀ sl, (s.conv sl).coco = true → (t.conv sl).coco = true
  duty : t.duty = s.duty
  outLevel : t.outLevel = s.outLevel
  cfg : t.cfg = s.cfg

theorem LoopSame.of_eq {s t : State} (hA : t.adA = s.adA) (hB : t.adB = s.adB) (hduty : t.duty = s.duty)
    (hlevel : t.outLevel = s.outLevel) (hcfg : t.cfg = s.cfg) : LoopSame s t := by
  have hconv : ∀ sl, t.conv sl = s.conv sl := by
    intro sl
    cases sl with
    | a => exact hA
    | b => exact hB
  exact ⟨fun sl s1 => by rw [hconv]; exact id, fun sl => by rw [hconv]; exact id, hduty, hlevel, hcfg⟩

theorem LoopInv.same {s t : State} {p : LoopPos} (h : LoopInv s p) (hsame : LoopSame s t) : LoopInv t p := by
  cases p with
  | line0 | select | code => trivial
  | wait sl s1 => exact hsame.select sl s1 h
  | poll sl s1 b l => exact ⟨hsame.select sl s1 h.1, h.2⟩
  | read sl s1 => exact ⟨h.1, hsame.coco sl h.2⟩
  | duty s1 s2 v => exact h
  | compare st => exact ⟨h.1, by rw [hsame.duty]; exact h.2⟩
  | drive st => exact ⟨h.1, by rw [hsame.duty, hsame.outLevel, hsame.cfg]; exact h.2⟩

theorem MicroInv.same {s t : State} {i : Instr} {k : Micro} (h : MicroInv s i k) (hsame : LoopSame s t) :
    MicroInv t i k := by
  cases k with
  | loop p =>
    obtain ⟨hi, hp, hloop⟩ := h
    exact ⟨hi, hp, hloop.same hsame⟩
  | _ => exact h

/-- A turn that leaves the background context's position alone keeps its promises. -/
theorem BgInv.same {s t : State} (h : BgInv s) (hbg : t.bg = s.bg) (hlatched : latched t = latched s)
    (hsame : LoopSame s t) : BgInv t := by
  cases hpos : s.bg with
  | idle => exact bgInv_of_idle (hbg.trans hpos)
  | exec k =>
    rw [BgInv, hpos] at h
    rw [BgInv, hbg, hpos, hlatched]
    exact h.imp id fun ⟨i, hi, hk⟩ => ⟨i, hi, hk.same hsame⟩
  | run p =>
    rw [BgInv, hpos] at h
    rw [BgInv, hbg, hpos, hlatched]
    exact ⟨h.1, h.2.same hsame⟩

/-! ### An iteration keeps the promises of its position -/

/-- After a start the select gave `OK`, or it left the slot disabled with nothing started. -/
theorem selectInv_start (v : ConvSlot) (cfg : Config) (code : Nat) (diff : Bool) :
    SelectInv (v.start (BitVec.ofNat 5 (resolve cfg code diff))) (selectStatus cfg code diff) := by
  unfold selectStatus
  split
  · exact .inl rfl
  · rename_i hrewritten
    obtain ⟨hkept, -⟩ | hdisabled := resolve_kept_or_disabled cfg code diff
    · exact absurd hkept hrewritten
    · rw [hdisabled]
      exact .inr ⟨rfl, rfl, rfl⟩

theorem selectInv_of_poll {s : State} {p : LoopPos} {sl : Slot} {s1 : Status} (hp : PollsAt p sl s1)
    (h : LoopInv s p) : SelectInv (s.conv sl) s1 ∧ ∀ b l, p = .poll sl s1 b l → WaitInv b l := by
  obtain rfl | ⟨b, l, rfl⟩ := hp
  · exact ⟨h, nofun⟩
  · refine ⟨h.1, ?_⟩
    rintro _ _ ⟨⟩
    exact h.2

theorem duty_statuses {s1 s2 : Status}
    (h : (s2 = .ok ∧ s1 = .ok) ∨ s2 = .invalidChannelIndex ∨ s2 = .conversionTimeout) :
    IterationStatus (loopStatus s1 s2) ∧ (loopStatus s1 s2 ≠ .ok → s2 ≠ .ok) := by
  obtain ⟨rfl, rfl⟩ | rfl | rfl := h
  · exact ⟨.inl rfl, fun h => absurd rfl h⟩
  · exact ⟨.inr (.inl rfl), nofun⟩
  · exact ⟨.inr (.inr rfl), nofun⟩

/-- A line of an iteration leaves a position whose promises hold, and never line 0. -/
theorem LoopLine.keeps {s t : State} {p q : LoopPos} (h : LoopLine s p (.goto q) t) (hinv : LoopInv s p) :
    q ≠ .line0 ∧ LoopInv t q := by
  generalize hn : LoopNext.goto q = n at h
  cases h <;> cases hn <;> refine ⟨nofun, ?_⟩
  case line0 => trivial
  case badSlot => exact .inr (.inl rfl)
  case select => trivial
  case code sl c m =>
    rw [LoopInv, conv_note, conv_setConv, if_pos rfl]
    exact selectInv_start _ _ _ _
  case found sl s1 hflag hp =>
    obtain ⟨hselect, -⟩ := selectInv_of_poll hp hinv
    refine ⟨hselect.resolve_right ?_, hflag⟩
    rintro ⟨-, -, hclear⟩
    rw [hflag] at hclear
    cases hclear
  case timedOut => exact .inr (.inr rfl)
  case again hp hwait =>
    obtain ⟨hselect, hcount⟩ := selectInv_of_poll hp hinv
    exact ⟨hselect, hwait hcount⟩
  case read => exact .inl ⟨rfl, hinv.1⟩
  case duty s1 s2 v =>
    obtain ⟨hstatus, hfailed⟩ := duty_statuses hinv
    exact ⟨hstatus, fun hst => if_neg (hfailed hst)⟩
  case compare st =>
    refine ⟨hinv.1, fun hst => ⟨hinv.2 hst, ?_⟩⟩
    have hduty : s.duty.toNat = 0 := congrArg BitVec.toNat (hinv.2 hst)
    rw [compareStep, hduty]
    rfl

theorem bgInv_loopit {s t : State} {k : Micro} (hdecode : decode (latched s) = .ok .loopit) (hbg : s.bg = .exec k)
    (hk : k = .first ∨ MicroInv s .loopit k) (h : exec .loopit s = .next t) : BgInv t := by
  have hlatched := (kept_exec h).latched
  obtain ⟨p, ⟨n, u⟩, hline, rfl, hp⟩ := exec_loopit_next h
  cases n with
  | ended st => exact bgInv_of_idle rfl
  | goto q =>
    have hinv : LoopInv s p := by
      obtain hp | rfl := hp
      · obtain rfl : k = .loop p := by rw [hbg] at hp; injection hp
        obtain ⟨-, -, hloop⟩ := hk.resolve_left nofun
        exact hloop
      · trivial
    obtain ⟨hq, hloop⟩ := (loopLine_of_loopStep hline).keeps hinv
    exact bgInv_of_exec rfl (hlatched ▸ hdecode) ⟨rfl, hq, hloop.same (.of_eq rfl rfl rfl rfl rfl)⟩

theorem bgInv_run {s t : State} (hdecode : decode (latched s) = .ok .run)
    (hinv : ∀ p, s.bg = .run p → LoopInv s p) (h : exec .run s = .next t) : BgInv t := by
  have hlatched := (kept_exec h).latched
  obtain ⟨p, ⟨n, u⟩, hp, hline, rfl⟩ | rfl := exec_run_next h
  · cases n with
    | ended st => exact ⟨hlatched ▸ hdecode, trivial⟩
    | goto q =>
      obtain ⟨-, hloop⟩ := (loopLine_of_loopStep hline).keeps (hinv p hp)
      exact ⟨hlatched ▸ hdecode, hloop.same (.of_eq rfl rfl rfl rfl rfl)⟩
  · exact ⟨hdecode, trivial⟩

/-! ### Every operation leaves a position of its own -/

theorem bgInv_exec {s t : State} {i : Instr} {k : Micro} (hdecode : decode (latched s) = .ok i) (hbg : s.bg = .exec k)
    (hk : k = .first ∨ MicroInv s i k) (h : exec i s = .next t) : BgInv t := by
  have hdecode' : decode (latched t) = .ok i := by rw [(kept_exec h).latched]; exact hdecode
  cases i with
  | ralwr fid v =>
    obtain ⟨st, rfl⟩ | ⟨f, -, -, -, rfl⟩ := exec_ralwr_next h <;> exact bgInv_of_idle rfl
  | ralrd fid => obtain ⟨st, d, rfl⟩ := exec_ralrd_next h; exact bgInv_of_idle rfl
  | tcfg ch load chained ie =>
    obtain ⟨st, rfl⟩ | ⟨c, v, k', hc, hpos, rfl⟩ := exec_tcfg_next h
    · exact bgInv_of_idle rfl
    · have hvalid : chanOf ch ≠ none := by rw [hc]; nofun
      obtain rfl | rfl | rfl := hpos <;> exact bgInv_of_exec rfl hdecode' ⟨_, _, _, _, rfl, hvalid⟩
  | tstart ch => obtain ⟨st, c, v, rfl⟩ := exec_tstart_next h; exact bgInv_of_idle rfl
  | tstop ch => obtain ⟨st, c, v, rfl⟩ := exec_tstop_next h; exact bgInv_of_idle rfl
  | cbreg handle => cases h; exact bgInv_of_idle rfl
  | adsel slot code diff =>
    obtain ⟨st, rfl⟩ | ⟨sl, hsl, ⟨-, st, d, c, rfl⟩ | rfl⟩ := exec_adsel_next h
    · exact bgInv_of_idle rfl
    · exact bgInv_of_idle rfl
    · exact bgInv_of_exec rfl hdecode' ⟨_, _, _, rfl, by rw [hsl]; nofun⟩
  | adwait slot =>
    obtain ⟨st, rfl⟩ | ⟨b, l, hvalid, rfl, hwait⟩ := exec_adwait_next h
    · exact bgInv_of_idle rfl
    · refine bgInv_of_exec rfl hdecode' ⟨slot, rfl, hvalid, hwait fun b l hb => ?_⟩
      obtain rfl : k = .adwaitPoll b l := by rw [hbg] at hb; injection hb
      obtain ⟨_, -, -, hpoll⟩ := hk.resolve_left nofun
      exact hpoll
  | adread slot =>
    obtain ⟨st, rfl⟩ | ⟨sl, d, -, rfl⟩ := exec_adread_next h <;> exact bgInv_of_idle rfl
  | dmap v => cases h; exact bgInv_of_idle rfl
  | pwmupd =>
    obtain rfl | rfl := exec_pwmupd_next h
    · exact bgInv_of_exec rfl hdecode' rfl
    · exact bgInv_of_idle rfl
  | loopit => exact bgInv_loopit hdecode hbg hk h
  | run => exact bgInv_run hdecode (fun p hp => by rw [hbg] at hp; cases hp) h
  | init a =>
    obtain ⟨p, hp, hstep⟩ | ⟨hpresent, rfl⟩ | rfl := exec_init_next h
    · obtain rfl : k = .init p := by rw [hbg] at hp; injection hp
      obtain ⟨_, ⟨⟩, hpresent, hinv⟩ := hk.resolve_left nofun
      obtain ⟨q, st, u, rfl, hgoes, -⟩ | ⟨st, rfl⟩ := initStep_next hstep
      · exact bgInv_of_exec rfl hdecode' ⟨a, rfl, hpresent, hgoes hinv⟩
      · exact bgInv_of_idle rfl
    · exact bgInv_of_exec rfl hdecode' ⟨a, rfl, hpresent, trivial⟩
    · exact bgInv_of_idle rfl

theorem bgInv_backgroundStep {s t : State} (hinv : BgInv s) (hbg : s.bg ≠ .idle) (h : backgroundStep s = .next t) :
    BgInv t := by
  unfold backgroundStep at h
  split at h
  · exact absurd ‹_› hbg
  · rename_i k hk
    rw [BgInv, hk] at hinv
    unfold runLatched at h
    split at h
    · rename_i i hdecode
      refine bgInv_exec hdecode hk (hinv.imp_right ?_) h
      rintro ⟨i', hdecode', hmicro⟩
      obtain rfl : i' = i := Except.ok.inj (hdecode'.symm.trans hdecode)
      exact hmicro
    · cases h; exact bgInv_of_idle rfl
  · rename_i p hp
    rw [BgInv, hp] at hinv
    refine bgInv_run hinv.1 (fun q hq => ?_) h
    obtain rfl : p = q := by rw [hp] at hq; injection hq
    exact hinv.2

/-! ### What a micro-step writes keeps the rest of the invariant -/

theorem slotInv_start (v : ConvSlot) (code : BitVec 5) : SlotInv (v.start code) :=
  fun hbusy => ⟨rfl, of_decide_eq_true hbusy⟩

/-- A completion flag that falls, on a slot that keeps the rest. -/
theorem SlotInv.read {v : ConvSlot} (h : SlotInv v) (b : Bool) : SlotInv { v with coco := v.coco && b } := by
  intro hbusy
  obtain ⟨hcoco, hch⟩ := h hbusy
  exact ⟨by rw [hcoco]; rfl, hch⟩

theorem Writes.slotInv {s u : State} (h : Writes s u) (hs : ∀ sl, SlotInv (s.conv sl)) (sl : Slot) :
    SlotInv (u.conv sl) := by
  cases h with
  | quiet hq =>
    intro hbusy
    obtain ⟨hcoco, hch⟩ := hs sl (by rwa [← hq.busy])
    exact ⟨by rwa [hq.coco], by rwa [hq.ch]⟩
  | start code hw =>
    rw [conv_setConv]
    split
    · exact slotInv_start _ _
    · exact hs sl
  | read hr =>
    rw [conv_afterRead]
    split
    · exact (hs _).read _
    · exact hs sl
  | clear hd => exact hs sl

theorem Writes.duty_le {s u : State} (h : Writes s u) (hs : s.duty.toNat ≤ 100) : u.duty.toNat ≤ 100 := by
  cases h with
  | quiet hq => exact hq.duty hs
  | start code hw => rwa [State.setConv_duty]
  | @read sl hr => cases sl <;> exact hs
  | clear hd => exact hs

theorem Writes.stLast {s u : State} (h : Writes s u) : u.stLast = s.stLast := by
  cases h with
  | quiet hq => exact hq.stLast
  | start code hw => rw [State.setConv_stLast]
  | @read sl hr => cases sl <;> rfl
  | clear hd => rfl

/-- A sticky bit falls only by the write of `ST_ERR` that names it. -/
theorem Writes.stErr {s u : State} (h : Writes s u) :
    u.stErr = s.stErr ∨
      ∃ v : Word, decode (latched s) = .ok (.ralwr 0x81 v) ∧ u.stErr = s.stErr &&& ~~~v.setWidth 7 := by
  cases h with
  | quiet hq => exact .inl hq.stErr
  | start code hw => exact .inl (State.setConv_stErr _ _ s)
  | @read sl hr => cases sl <;> exact .inl rfl
  | clear hd => exact .inr ⟨_, hd, rfl⟩

theorem Moves.conv {u t : State} (h : Moves u t) (sl : Slot) : t.conv sl = u.conv sl := by
  cases h <;> rfl

theorem Moves.duty {u t : State} (h : Moves u t) : t.duty = u.duty := by
  cases h <;> rfl

theorem Moves.stErr {u t : State} (h : Moves u t) : ∃ st, t.stErr = u.stErr ||| stickyBit st := by
  cases h <;> exact ⟨_, rfl⟩

theorem statusCode_le (st : Status) : statusCode st ≤ 6 := by
  cases st <;> decide

theorem Moves.stLast {u t : State} (h : Moves u t) :
    t.stLast = u.stLast ∨ ∃ st, t.stLast = BitVec.ofNat 4 (statusCode st) := by
  cases h
  case goto => exact .inl rfl
  all_goals exact .inr ⟨_, rfl⟩

theorem stickyBit_zero (st : Status) : (stickyBit st).getLsbD 0 = false := by
  cases st <;> rfl

theorem Effect.sticky_zero {s t : State} (h : Effect s t) (hs : s.stErr.getLsbD 0 = false) :
    t.stErr.getLsbD 0 = false := by
  obtain ⟨u, hw, hm⟩ := h
  obtain ⟨st, e⟩ := hm.stErr
  rw [e, BitVec.getLsbD_or, stickyBit_zero, Bool.or_false]
  obtain e | ⟨v, -, e⟩ := hw.stErr
  · rwa [e]
  · rw [e, BitVec.getLsbD_and, hs, Bool.false_and]

theorem Effect.last_le {s t : State} (h : Effect s t) (hs : s.stLast.toNat ≤ 6) : t.stLast.toNat ≤ 6 := by
  obtain ⟨u, hw, hm⟩ := h
  obtain e | ⟨st, e⟩ := hm.stLast
  · rwa [e, hw.stLast]
  · rw [e, BitVec.toNat_ofNat]
    exact (Nat.mod_le _ _).trans (statusCode_le st)

/-! ### The invariant after each turn -/

theorem BlockInv.slot {s : State} (h : BlockInv s) (sl : Slot) : SlotInv (s.conv sl) := by
  cases sl with
  | a => exact h.slotA
  | b => exact h.slotB

theorem isrInv_of_not_waiting {t : State} (h : ∀ w, t.isr ≠ .waiting w) : IsrInv t := by
  unfold IsrInv
  split
  · exact absurd ‹_› (h _)
  · trivial

theorem IsrInv.same {s t : State} (h : IsrInv s) (hisr : t.isr = s.isr) (hcb : t.cb = s.cb) (hcfg : t.cfg = s.cfg) :
    IsrInv t := by
  rwa [IsrInv, hisr, hcb, hcfg]

/-- Only the position of the interrupt context and the flags of the timer change. -/
theorem BlockInv.of_frame {s t : State} (h : BlockInv s)
    (ht : t = { s with tmr0 := t.tmr0, tmr1 := t.tmr1, tick := t.tick, isr := t.isr }) (htick : t.tick.toNat < 100)
    (hisr : IsrInv t) : BlockInv t := by
  have hbg : BgInv t := h.bg.same (by rw [ht]) (by rw [ht]; rfl) (by rw [ht]; exact .of_eq rfl rfl rfl rfl rfl)
  exact ⟨htick, by rw [ht]; exact h.duty_le, by rw [ht]; exact h.slotA, by rw [ht]; exact h.slotB,
    by rw [ht]; exact h.sticky_zero, by rw [ht]; exact h.last_le, hbg, hisr⟩

theorem blockInv_backgroundStep {s t : State} (hinv : BlockInv s) (hbg : s.bg ≠ .idle) (hisr : s.isr = .none)
    (h : backgroundStep s = .next t) : BlockInv t := by
  have hkept := kept_backgroundStep hbg h
  have heffect := effect_backgroundStep hbg h
  obtain ⟨u, hw, hm⟩ := id heffect
  have hslot : ∀ sl, SlotInv (t.conv sl) := fun sl => by rw [hm.conv]; exact hw.slotInv hinv.slot sl
  exact ⟨by rw [hkept.tick]; exact hinv.tick_lt, by rw [hm.duty]; exact hw.duty_le hinv.duty_le, hslot .a, hslot .b,
    heffect.sticky_zero hinv.sticky_zero, heffect.last_le hinv.last_le, bgInv_backgroundStep hinv.bg hbg h,
    isrInv_of_not_waiting (by rw [hkept.isr, hisr]; nofun)⟩

theorem blockInv_acceptNext {s : State} (hinv : BlockInv s) : BlockInv (acceptNext s) := by
  obtain ⟨-, e⟩ | ⟨c, rest, -, e⟩ := acceptNext_cases s <;> rw [e]
  · exact hinv
  · exact ⟨hinv.tick_lt, hinv.duty_le, hinv.slotA, hinv.slotB, hinv.sticky_zero, hinv.last_le, .inl rfl, hinv.isr⟩

theorem blockInv_interruptTurn {s t : State} (hinv : BlockInv s) (h : interruptTurn s = .ok t) : BlockInv t := by
  have hframe : t = { s with tmr0 := t.tmr0, tmr1 := t.tmr1, tick := t.tick, isr := t.isr } := by
    rw [interruptTurn_frame h]
  by_cases hisr : s.isr = .none
  · obtain ⟨-, rfl⟩ | ⟨-, rfl⟩ := interruptTurn_of_none hisr h
    · exact hinv.of_frame rfl hinv.tick_lt trivial
    · exact hinv
  · rw [interruptTurn_of_dispatch hisr] at h
    obtain ⟨-, ⟨htick, hwait⟩ | ⟨-, rfl⟩⟩ := dispatchStep_next h hisr
    · refine hinv.of_frame hframe (by rw [htick]; exact hinv.tick_lt) ?_
      unfold IsrInv
      split
      · rename_i w hw
        have hs := hinv.isr
        rw [IsrInv, hwait w hw] at hs
        rw [hframe]
        exact hs
      · trivial
    · refine hinv.of_frame hframe ?_ ?_ <;>
        obtain ⟨-, e⟩ | ⟨-, -, e⟩ | ⟨hzero, htick, e⟩ := invoke_cases s <;> rw [e]
      · exact hinv.tick_lt
      · exact (tickHandler_tick_toNat hinv.tick_lt).trans_lt (Nat.mod_lt _ (by decide))
      · exact hinv.tick_lt
      · trivial
      · trivial
      · exact ⟨hzero, htick, rfl⟩

/-- A completion keeps what the position of a waiting iteration promises: a slot left disabled is not busy, and the
flag does not fall. -/
theorem loopSame_complete {s : State} {sl : Slot} (hslot : SlotInv (s.conv sl)) (hbusy : (s.conv sl).busy = true)
    (x : BitVec 16) :
    LoopSame s (s.setConv sl { s.conv sl with result := x, coco := true, busy := false }) := by
  obtain ⟨-, hch⟩ := hslot hbusy
  refine ⟨fun sm s1 hsel => ?_, fun sm hcoco => ?_, by simp, by simp, by simp⟩ <;> rw [conv_setConv] <;> split
  · rename_i h
    subst h
    exact .inl (hsel.resolve_right fun hdisabled => hch hdisabled.2.1)
  · exact hsel
  · rfl
  · exact hcoco

theorem blockInv_convComplete {s : State} (hinv : BlockInv s) (sl : Slot) (x : BitVec 16) :
    BlockInv (convComplete sl x s) := by
  unfold convComplete
  split
  · rename_i hen
    have hslot : ∀ sm, SlotInv
        ((s.setConv sl { s.conv sl with result := x, coco := true, busy := false }).conv sm) := by
      intro sm
      rw [conv_setConv]
      split
      · exact nofun
      · exact hinv.slot sm
    exact ⟨by simpa using hinv.tick_lt, by simpa using hinv.duty_le, hslot .a, hslot .b, by simpa using hinv.sticky_zero,
      by simpa using hinv.last_le,
      hinv.bg.same (by simp) (by simp [latched]) (loopSame_complete (hinv.slot sl) hen.2.1 x),
      hinv.isr.same (by simp) (by simp) (by simp)⟩
  · exact hinv

theorem blockInv_timerExpire {s : State} (hinv : BlockInv s) (c : Chan) : BlockInv (timerExpire c s) := by
  unfold timerExpire
  split
  · cases c <;> exact hinv.of_frame rfl hinv.tick_lt hinv.isr
  · exact hinv

theorem blockInv_handlerReturn {s : State} (hinv : BlockInv s) : BlockInv (handlerReturn s) := by
  unfold handlerReturn
  split
  · exact hinv.of_frame rfl hinv.tick_lt trivial
  · exact hinv

theorem blockInv_setGate {s : State} (hinv : BlockInv s) (g : Gate) (v : Bool) : BlockInv (s.setGate g v) := by
  cases g <;>
    exact ⟨hinv.tick_lt, hinv.duty_le, hinv.slotA, hinv.slotB, hinv.sticky_zero, hinv.last_le,
      hinv.bg.same rfl rfl (.of_eq rfl rfl rfl rfl rfl), hinv.isr⟩

theorem blockInv_resetWith (cfg : Config) (gTmr gAdc gPin : Bool) : BlockInv (State.resetWith cfg gTmr gAdc gPin) :=
  ⟨Nat.zero_lt_succ _, Nat.zero_le _, nofun, nofun, BitVec.getLsbD_zero, Nat.zero_le _, trivial, trivial⟩

theorem blockInv_afterTurn {s : State} (hinv : BlockInv s) : BlockInv (afterTurn s) :=
  ⟨hinv.tick_lt, hinv.duty_le, hinv.slotA, hinv.slotB, hinv.sticky_zero, hinv.last_le,
    hinv.bg.same rfl rfl (.of_eq rfl rfl rfl rfl rfl), hinv.isr⟩

theorem blockInv_takeTurn {x : Turn} {s t : State} (hinv : BlockInv s) (h : takeTurn x s = .next t) : BlockInv t := by
  cases x with
  | background =>
    obtain ⟨-, e⟩ | ⟨hbg, hisr, e⟩ | ⟨-, -, e⟩ := backgroundTurn_cases s <;> rw [takeTurn, e] at h
    · cases h; exact blockInv_acceptNext hinv
    · exact blockInv_backgroundStep hinv hbg hisr h
    · cases h; exact hinv
  | interrupt => exact blockInv_interruptTurn hinv (finish_next_iff.mp h)
  | spurious =>
    obtain ⟨-, -, rfl⟩ | rfl := spuriousTurn_next (finish_next_iff.mp h)
    · exact hinv.of_frame rfl hinv.tick_lt trivial
    · exact hinv
  | timerExpire c => cases h; exact blockInv_timerExpire hinv c
  | convComplete sl v => cases h; exact blockInv_convComplete hinv sl v
  | handlerReturn => cases h; exact blockInv_handlerReturn hinv
  | setGate g v => cases h; exact blockInv_setGate hinv g v
  | powerCycle =>
    cases h
    have hreset := blockInv_resetWith s.cfg s.gateTmr s.gateAdc s.gatePin
    exact ⟨hreset.tick_lt, hreset.duty_le, hreset.slotA, hreset.slotB, hreset.sticky_zero, hreset.last_le, trivial,
      trivial⟩

/-- Settles O11: a step is one turn on the state without it, and every turn keeps the invariant. -/
theorem stepKeepsInvariant : Obligations.StepKeepsInvariant := by
  intro s t hinv hstep
  rw [step_eq_takeTurn] at hstep
  exact blockInv_takeTurn (blockInv_afterTurn hinv) hstep

/-- Settles O12: every field of the reset column lies within its bound, and neither context has begun anything. -/
theorem resetHoldsInvariant : Obligations.ResetHoldsInvariant :=
  ⟨blockInv_resetWith, blockInv_resetWith _ _ _ _⟩

end Sys2Proof.Machine
end

section
/-! PROOFS. The step (30_encoding.md R63, R72, R80): acceptance, the decoded instruction, an illegal command, the reset
event; and, for every turn of every agent, all that it can change. -/

namespace Sys2Proof.Machine

open Sys2Proof

/-! ### A background turn outside a dispatch -/

theorem step_of_exec {s : State} {i : Instr} {k : Micro} (hisr : s.isr = .none) (hturn : nextTurn s = .background)
    (hbg : s.bg = .exec k) (hdecode : decode (latched s) = .ok i) : step s = exec i (afterTurn s) := by
  rw [step_background hturn, backgroundTurn_of_none (s := afterTurn s) hisr]
  simp [backgroundStep, hbg, runLatched, hdecode]

theorem step_of_run {s : State} {p : LoopPos} (hisr : s.isr = .none) (hturn : nextTurn s = .background)
    (hbg : s.bg = .run p) : step s = exec .run (afterTurn s) := by
  rw [step_background hturn, backgroundTurn_of_none (s := afterTurn s) hisr]
  simp [backgroundStep, hbg]

/-- Settles O5: outside a dispatch the background context's turn is its move, which is `exec` of what the latched words
decode to, or of `RUN`. -/
theorem stepRunsDecodedInstruction : Obligations.StepRunsDecodedInstruction :=
  ⟨fun _ _ _ => step_of_exec, fun _ _ => step_of_run⟩

theorem step_of_idle {s : State} (hturn : nextTurn s = .background) (hbg : s.bg = .idle) :
    step s = .next (acceptNext (afterTurn s)) := by
  rw [step_background hturn, backgroundTurn_of_idle (s := afterTurn s) hbg]

/-- Settles O6: the background turn of an idle block is `acceptNext`, whatever the interrupt context does. -/
theorem idleAcceptsCommand : Obligations.IdleAcceptsCommand := by
  constructor
  · intro s c rest hturn hbg hcommands
    rw [step_of_idle hturn hbg]
    simp [acceptNext, hcommands, accept, afterTurn]
  · intro s hturn hbg hcommands
    rw [step_of_idle hturn hbg]
    simp [acceptNext, hcommands, afterTurn]

/-! ### An illegal command -/

/-- The three illegal forms (30_encoding.md R72, R73) are rejected by the decoder. -/
theorem decode_error_of_illegal {c : Command}
    (h : Op.ofCode (bits c.cw 31 24) = none ∨
      ∃ op, Op.ofCode (bits c.cw 31 24) = some op ∧
        (c.cw &&& op.mask ≠ op.pattern ∨ (op = .init ∧ c.arg0 &&& 0xFFFF0080#32 ≠ 0#32))) :
    ∃ e, decode c = .error e := by
  obtain hnone | ⟨op, hop, hmask | ⟨rfl, harg⟩⟩ := h
  · exact ⟨.reservedOp, by simp [decode, hnone]⟩
  · exact ⟨.reservedBits, by simp [decode, hop, hmask]⟩
  · by_cases hmask : c.cw &&& Op.init.mask = Op.init.pattern
    · exact ⟨.reservedArg0, by simp [decode, hop, hmask, initReserved, harg]⟩
    · exact ⟨.reservedBits, by simp [decode, hop, hmask]⟩

/-- Settles O8: the decoder rejects each of the three forms, and a rejected command is a response alone. -/
theorem illegalCommandChangesOnlyStatus : Obligations.IllegalCommandChangesOnlyStatus := by
  intro s hisr hturn hbg hillegal
  obtain ⟨e, hdecode⟩ := decode_error_of_illegal (c := latched s) hillegal
  rw [step_background hturn, backgroundTurn_of_none (s := afterTurn s) hisr]
  simp only [backgroundStep, afterTurn_bg, hbg, runLatched, latched_afterTurn, hdecode, respond_illegalCommand]
  rfl

/-! ### All that a turn can change -/

/-- A turn that works on the dispatch or on a timer flag: the two flags, `TICK` and the position of the interrupt
context. It counts a tick at line 6 only, starts a dispatch at a high line or a spurious event only, and never nests. -/
structure DispatchTurn (s : State) (x : Turn) (t : State) : Prop where
  frame : t = { s with
    tmr0 := { s.tmr0 with flag := t.tmr0.flag }, tmr1 := { s.tmr1 with flag := t.tmr1.flag }
    tick := t.tick, isr := t.isr }
  tick : t.tick = s.tick ∨ (x = .interrupt ∧ s.isr = .line6 ∧ t = invoke s)
  entry : s.isr = .none → t.isr ≠ .none → t.isr = .line1 ∧
    ((x = .interrupt ∧ irqLine s = true) ∨ (x = .spurious ∧ s.cfg.allowSpurious = true))
  nesting : s.isr ≠ .none → t.isr = .line1 → s.isr = .line1 ∧ x ≠ .interrupt

/-- What a turn of each agent can do (20_memory.md R55). -/
inductive TurnEffect (s : State) : Turn → State → Prop
  | accept (hbg : s.bg = .idle) : TurnEffect s .background (acceptNext s)
  | micro {t : State} (hbg : s.bg ≠ .idle) (hisr : s.isr = .none) (hkept : Kept s t) (heffect : Effect s t) :
      TurnEffect s .background t
  | blocked (hbg : s.bg ≠ .idle) (hisr : s.isr ≠ .none) : TurnEffect s .background s
  | dispatch {x : Turn} {t : State} (h : DispatchTurn s x t) : TurnEffect s x t
  | complete {sl : Slot} (x : BitVec 16) (hgate : s.gateAdc = true) (hbusy : (s.conv sl).busy = true) :
      TurnEffect s (.convComplete sl x) (s.setConv sl { s.conv sl with result := x, coco := true, busy := false })
  | setGate (g : Gate) (v : Bool) : TurnEffect s (.setGate g v) (s.setGate g v)
  | reset : TurnEffect s .powerCycle (powerCycle s)

theorem DispatchTurn.refl {s : State} {x : Turn} (hx : x ≠ .interrupt) : DispatchTurn s x s :=
  ⟨rfl, .inl rfl, fun h hne => absurd h hne, fun _ h => ⟨h, hx⟩⟩

theorem dispatchTurn_interrupt {s t : State} (h : interruptTurn s = .ok t) : DispatchTurn s .interrupt t := by
  by_cases hisr : s.isr = .none
  · obtain ⟨hline, rfl⟩ | ⟨-, rfl⟩ := interruptTurn_of_none hisr h
    · exact ⟨rfl, .inl rfl, fun _ _ => ⟨rfl, .inl ⟨rfl, hline⟩⟩, fun hne => absurd hisr hne⟩
    · exact ⟨rfl, .inl rfl, fun _ hne => absurd hisr hne, fun hne => absurd hisr hne⟩
  · have hframe := interruptTurn_frame h
    rw [interruptTurn_of_dispatch hisr] at h
    obtain ⟨hline1, hrest⟩ := dispatchStep_next h hisr
    exact ⟨hframe, hrest.imp And.left fun ⟨hpos, he⟩ => ⟨rfl, hpos, he⟩, fun hnone => absurd hnone hisr,
      fun _ h1 => absurd h1 hline1⟩

theorem dispatchTurn_spurious {s t : State} (h : spuriousTurn s = .ok t) : DispatchTurn s .spurious t := by
  obtain ⟨hisr, hallow, rfl⟩ | rfl := spuriousTurn_next h
  · exact ⟨rfl, .inl rfl, fun _ _ => ⟨rfl, .inr ⟨rfl, hallow⟩⟩, fun hne => absurd hisr hne⟩
  · exact .refl nofun

theorem dispatchTurn_timerExpire (c : Chan) (s : State) : DispatchTurn s (.timerExpire c) (timerExpire c s) := by
  unfold timerExpire
  split
  · cases c <;> exact ⟨rfl, .inl rfl, fun h hne => absurd h hne, fun _ h => ⟨h, by nofun⟩⟩
  · exact .refl nofun

theorem dispatchTurn_handlerReturn (s : State) : DispatchTurn s .handlerReturn (handlerReturn s) := by
  unfold handlerReturn
  split
  · rename_i w hw
    exact ⟨rfl, .inl rfl, fun hnone => (nomatch hw.symm.trans hnone), fun _ => nofun⟩
  · exact .refl nofun

theorem turnEffect_takeTurn {x : Turn} {s t : State} (h : takeTurn x s = .next t) : TurnEffect s x t := by
  cases x with
  | background =>
    obtain ⟨hbg, e⟩ | ⟨hbg, hisr, e⟩ | ⟨hbg, hisr, e⟩ := backgroundTurn_cases s <;> rw [takeTurn, e] at h
    · cases h; exact .accept hbg
    · exact .micro hbg hisr (kept_backgroundStep hbg h) (effect_backgroundStep hbg h)
    · cases h; exact .blocked hbg hisr
  | interrupt => exact .dispatch (dispatchTurn_interrupt (finish_next_iff.mp h))
  | spurious => exact .dispatch (dispatchTurn_spurious (finish_next_iff.mp h))
  | timerExpire c => cases h; exact .dispatch (dispatchTurn_timerExpire c s)
  | convComplete sl v =>
    cases h
    unfold convComplete
    split
    · rename_i hen
      exact .complete v hen.1 hen.2.1
    · exact .dispatch (.refl nofun)
  | handlerReturn => cases h; exact .dispatch (dispatchTurn_handlerReturn s)
  | setGate g v => cases h; exact .setGate g v
  | powerCycle => cases h; exact .reset

/-- All that a step can do. -/
theorem turnEffect_step {s t : State} (h : step s = .next t) : TurnEffect (afterTurn s) (nextTurn s) t :=
  turnEffect_takeTurn (by rwa [← step_eq_takeTurn])

/-- Settles O7: of all that a turn can do, only the acceptance takes a command from the list. -/
theorem commandsTakenOnlyWhenIdle : Obligations.CommandsTakenOnlyWhenIdle := by
  intro s t hstep hne
  have heffect := turnEffect_step hstep
  generalize nextTurn s = x at heffect
  cases heffect with
  | accept hbg =>
    obtain ⟨-, e⟩ | ⟨c, rest, hcommands, e⟩ := acceptNext_cases (afterTurn s)
    · exact absurd (by rw [e]; rfl) hne
    · rw [e]
      exact ⟨hbg, rfl, c, hcommands, rfl, rfl⟩
  | micro hbg hisr hkept => exact absurd hkept.commands hne
  | blocked => exact absurd rfl hne
  | dispatch h => exact absurd (by rw [h.frame]; rfl) hne
  | complete => exact absurd (by simp) hne
  | setGate => exact absurd (by simp) hne
  | reset => exact absurd rfl hne

/-! ### The reset event -/

theorem getField_resetWith (cfg : Config) (gTmr gAdc gPin : Bool) (f : Field) :
    getField f (State.resetWith cfg gTmr gAdc gPin) = resetColumn cfg f := by
  cases f with
  | tLoad c | tEn c | tIe c | tChn c | tIf c => cases c <;> rfl
  | adCh sl | adDiff sl | adIen sl | adCoco sl | adR sl => cases sl <;> rfl
  | _ => rfl

/-- Nothing that a field stores is in what outlives the reset (log 25). -/
theorem getField_powerCycle (s : State) (f : Field) :
    getField f (powerCycle s) = getField f (State.resetWith s.cfg s.gateTmr s.gateAdc s.gatePin) := by
  cases f <;> rfl

/-- Settles O13: the step is `powerCycle`, whose fields are those of the reset state. -/
theorem powerCycleResetsEveryField : Obligations.PowerCycleResetsEveryField := by
  intro s hturn
  refine ⟨powerCycle (afterTurn s), by rw [step_eq_takeTurn, hturn]; rfl, fun f => ?_, rfl, rfl, fun sl => ?_, rfl,
    fun g => ?_, rfl, rfl, rfl⟩
  · rw [getField_powerCycle, getField_resetWith]
    rfl
  · cases sl <;> rfl
  · cases g <;> rfl

/-! ### How a step stops -/

/-- The outcome goes on, or it is the fault of a gate that is 0. -/
def GoesOnOrUngated (s : State) (o : Host.Outcome State Fault Refusal) : Prop :=
  (∃ t, o = .next t) ∨ ∃ g, o = .fault (.ungatedAccess g) ∧ s.gate g = false

/-- The same for a micro-step's body. -/
def FaultsUngated {α : Type} (s : State) (e : Except Fault α) : Prop :=
  ∀ f, e = .error f → ∃ g, f = .ungatedAccess g ∧ s.gate g = false

section
variable {s : State}

theorem goesOn (t : State) : GoesOnOrUngated s (.next t) := .inl ⟨t, rfl⟩

theorem goesOn_finish {e : Except Fault State} (h : FaultsUngated s e) : GoesOnOrUngated s (finish e) := by
  cases e with
  | ok t => exact goesOn t
  | error f =>
    obtain ⟨g, rfl, hdown⟩ := h f rfl
    exact .inr ⟨g, rfl, hdown⟩

theorem faultsUngated_ok {α : Type} (a : α) : FaultsUngated s (.ok a : Except Fault α) := nofun

theorem faultsUngated_gated {α : Type} (g : Gate) (a : α) : FaultsUngated s (gated g s a) :=
  fun _ h => ⟨g, (gated_error_iff.mp h).2, (gated_error_iff.mp h).1⟩

theorem faultsUngated_map {α β : Type} {e : Except Fault α} (f : α → β) (h : FaultsUngated s e) :
    FaultsUngated s (e.map f) :=
  fun r hr => h r (map_error_iff.mp hr)

theorem faultsUngated_gatedField {α : Type} (f : Field) (a : α) : FaultsUngated s (gatedField f s a) := by
  unfold gatedField
  split
  · exact faultsUngated_gated _ a
  · exact faultsUngated_ok a

theorem faultsUngated_loopStep (p : LoopPos) : FaultsUngated s (loopStep p s) := by
  cases p with
  | line0 | duty | compare => exact faultsUngated_ok _
  | select slot c m =>
    simp only [loopStep]
    split
    · exact faultsUngated_ok _
    · exact faultsUngated_map _ (faultsUngated_gated _ _)
  | code | wait | poll | read | drive => exact faultsUngated_map _ (faultsUngated_gated _ _)

theorem faultsUngated_initStep (a : InitArgs) (p : InitPos) : FaultsUngated s (initStep a p s) := by
  cases p with
  | line1 | line2 | line3 | line4 => exact faultsUngated_gated _ _
  | line5 =>
    simp only [initStep]
    split
    · exact faultsUngated_ok _
    · exact faultsUngated_gated _ _
  | line6 | callback => exact faultsUngated_ok _
  | select | load | runState =>
    simp only [initStep]
    split
    · exact faultsUngated_ok _
    · exact faultsUngated_map _ (faultsUngated_gated _ _)
  | code | chain | arm => exact faultsUngated_map _ (faultsUngated_gated _ _)

theorem goesOn_exec (i : Instr) (s : State) : GoesOnOrUngated s (exec i s) := by
  have hmap : ∀ {α : Type} {e : Except Fault α} (f : α → State), FaultsUngated s e →
      GoesOnOrUngated s (finish (e.map f)) := fun f h => goesOn_finish (faultsUngated_map f h)
  have hgated : ∀ {α : Type} (g : Gate) (a : α), FaultsUngated s (gated g s a) := faultsUngated_gated
  cases i with
  | ralwr fid v =>
    simp only [exec, execRalwr]
    split
    · exact goesOn _
    · split
      · exact goesOn _
      · exact goesOn_finish (faultsUngated_gatedField _ _)
  | ralrd fid =>
    simp only [exec, execRalrd]
    split
    · exact goesOn _
    · exact goesOn_finish (faultsUngated_gatedField _ _)
  | tcfg ch load chained ie =>
    simp only [exec, execTcfg]
    split
    · exact goesOn _
    · split
      · exact hmap _ (hgated _ _)
      · exact hmap _ (hgated _ _)
      · exact goesOn _
      · exact hmap _ (hgated _ _)
  | tstart ch =>
    simp only [exec, execTstart]
    split
    · exact goesOn _
    · exact hmap _ (hgated _ _)
  | tstop ch =>
    simp only [exec, execTstop]
    split
    · exact goesOn _
    · exact hmap _ (hgated _ _)
  | cbreg | dmap => exact goesOn _
  | adsel slot code diff =>
    simp only [exec, execAdsel]
    split
    · exact goesOn _
    · split <;> exact hmap _ (hgated _ _)
  | adwait slot =>
    simp only [exec, execAdwait]
    split
    · exact goesOn _
    · split <;> exact hmap _ (hgated _ _)
  | adread slot =>
    simp only [exec, execAdread]
    split
    · exact goesOn _
    · exact hmap _ (hgated _ _)
  | pwmupd =>
    simp only [exec, execPwmupd]
    split
    · exact hmap _ (hgated _ _)
    · exact goesOn_finish (hgated _ _)
  | loopit =>
    simp only [exec, execLoopit]
    split <;> exact hmap _ (faultsUngated_loopStep _)
  | run =>
    simp only [exec, execRun]
    split
    · exact hmap _ (faultsUngated_loopStep _)
    · exact goesOn _
  | init a =>
    simp only [exec, execInit]
    split
    · exact goesOn_finish (faultsUngated_initStep _ _)
    · split <;> exact goesOn _

theorem goesOn_backgroundStep (s : State) : GoesOnOrUngated s (backgroundStep s) := by
  unfold backgroundStep
  split
  · exact goesOn _
  · unfold runLatched
    split
    · exact goesOn_exec _ s
    · exact goesOn _
  · exact goesOn_exec _ s

theorem faultsUngated_dispatchStep (s : State) : FaultsUngated s (dispatchStep s) := by
  unfold dispatchStep
  cases s.isr with
  | none | line6 | waiting | line7 => exact faultsUngated_ok _
  | line1 | line2 | line5b => exact faultsUngated_gated _ _
  | line3 | line4 | line5 =>
    dsimp only
    split
    · exact faultsUngated_gated _ _
    · exact faultsUngated_ok _

theorem goesOn_takeTurn (x : Turn) (s : State) : GoesOnOrUngated s (takeTurn x s) := by
  cases x with
  | background =>
    obtain ⟨-, e⟩ | ⟨-, -, e⟩ | ⟨-, -, e⟩ := backgroundTurn_cases s <;> rw [takeTurn, e]
    · exact goesOn _
    · exact goesOn_backgroundStep s
    · exact goesOn _
  | interrupt =>
    refine goesOn_finish ?_
    unfold interruptTurn
    split
    · split
      · exact faultsUngated_gated _ _
      · exact faultsUngated_ok _
    · exact faultsUngated_dispatchStep s
  | spurious =>
    refine goesOn_finish ?_
    unfold spuriousTurn
    split
    · exact faultsUngated_gated _ _
    · exact faultsUngated_ok _
  | _ => exact goesOn _

end

/-- Settles O9: whatever the turn, the step goes on or faults on a gate that is 0. -/
theorem stepStopsOnlyOnUngatedAccess : Obligations.StepStopsOnlyOnUngatedAccess := by
  intro s
  have hstep := goesOn_takeTurn (nextTurn s) (afterTurn s)
  rw [← step_eq_takeTurn] at hstep
  obtain ⟨t, e⟩ | ⟨g, e, hdown⟩ := hstep <;> rw [e]
  · exact ⟨nofun, nofun, fun _ => ⟨t, rfl⟩⟩
  · rw [gate_afterTurn] at hdown
    refine ⟨nofun, ?_, fun hup => ?_⟩
    · rintro _ ⟨⟩
      exact ⟨g, rfl, hdown⟩
    · simp only [gatesUp, Bool.and_eq_true] at hup
      cases g <;> simp_all [State.gate]

end Sys2Proof.Machine
end

section
/-! PROOFS. Who writes what (20_memory.md R56): the completion flag (42_conversion_sequencer.md R111), the output, the
gates and the parameters (10_state.md R38, R39), `TICK` (R31), the sticky bits and the response (60_exceptions.md R133).
Each is read off all that a turn can do, `TurnEffect`. -/

namespace Sys2Proof.Machine

open Sys2Proof

/-! ### What acceptance and the completion of a micro-step leave -/

theorem conv_acceptNext (sl : Slot) (s : State) : (acceptNext s).conv sl = s.conv sl := by
  rw [(acceptNext_frame s).1]
  rfl

theorem DispatchTurn.conv {s t : State} {x : Turn} (h : DispatchTurn s x t) (sl : Slot) : t.conv sl = s.conv sl := by
  rw [h.frame]
  rfl

theorem conv_setGate (g : Gate) (v : Bool) (sl : Slot) (s : State) : (s.setGate g v).conv sl = s.conv sl := by
  cases g <;> rfl

/-- The reset clears both completion flags (70_reset_and_hazards.md R159). -/
theorem coco_powerCycle (s : State) (sl : Slot) : ((powerCycle s).conv sl).coco = false := by
  cases sl <;> rfl

/-! ### The completion flag -/

/-- A background micro-step never sets a completion flag. -/
theorem Effect.coco_le {s t : State} (h : Effect s t) {sl : Slot} (ht : (t.conv sl).coco = true) :
    (s.conv sl).coco = true := by
  obtain ⟨u, hw, hm⟩ := h
  rw [hm.conv] at ht
  cases hw with
  | quiet hq => rwa [← hq.coco]
  | start code hcode =>
    rw [conv_setConv] at ht
    split at ht
    · cases ht
    · exact ht
  | read hread =>
    rw [conv_afterRead] at ht
    split at ht
    · rename_i e
      subst e
      exact Bool.and_elim_left ht
    · exact ht
  | clear => exact ht

/-- A background micro-step that clears a completion flag writes the slot's code, or reads its result under
`COCO_CLEAR_ON_READ`. -/
theorem Effect.coco_falls {s t : State} (h : Effect s t) {sl : Slot} (hs : (s.conv sl).coco = true)
    (ht : (t.conv sl).coco = false) :
    (WritesCode sl s ∧ (t.conv sl).busy = decide ((t.conv sl).ch ≠ 31#5)) ∨
      (ReadsResult sl s ∧ s.cfg.cocoClearOnRead = true) := by
  obtain ⟨u, hw, hm⟩ := h
  rw [hm.conv] at ht ⊢
  cases hw with
  | quiet hq => rw [hq.coco, hs] at ht; cases ht
  | start code hcode =>
    rw [conv_setConv] at ht ⊢
    split at ht
    · rename_i e
      subst e
      exact .inl ⟨hcode, by rw [if_pos rfl]; rfl⟩
    · rw [hs] at ht; cases ht
  | read hread =>
    rw [conv_afterRead] at ht
    split at ht
    · rename_i e
      subst e
      rw [hs] at ht
      exact .inr ⟨hread, by simpa using ht⟩
    · rw [hs] at ht; cases ht
  | clear => exact absurd (hs.symm.trans ht) nofun

/-- What a turn does to one completion flag. -/
theorem TurnEffect.coco {s t : State} {x : Turn} (h : TurnEffect s x t) (sl : Slot) :
    (t.conv sl).coco = (s.conv sl).coco ∨
      ((∃ v, x = .convComplete sl v) ∧ s.gateAdc = true ∧ (s.conv sl).busy = true ∧ (t.conv sl).coco = true) ∨
      (x = .background ∧ s.isr = .none ∧ Effect s t) ∨ (x = .powerCycle ∧ (t.conv sl).coco = false) := by
  cases h with
  | accept => rw [conv_acceptNext]; exact .inl rfl
  | micro hbg hisr hkept he => exact .inr (.inr (.inl ⟨rfl, hisr, he⟩))
  | blocked => exact .inl rfl
  | dispatch h => rw [h.conv]; exact .inl rfl
  | @complete sm v hgate hbusy =>
    rw [conv_setConv]
    split
    · rename_i e
      subst e
      exact .inr (.inl ⟨⟨v, rfl⟩, hgate, hbusy, rfl⟩)
    · exact .inl rfl
  | setGate => rw [conv_setGate]; exact .inl rfl
  | reset => exact .inr (.inr (.inr ⟨rfl, coco_powerCycle s sl⟩))

/-- Settles O31: only a completion sets the flag, and it falls at a code write, a clearing read or the reset. -/
theorem completionFlagHasThreeWriters : Obligations.CompletionFlagHasThreeWriters := by
  intro s t sl hstep
  have heffect := turnEffect_step hstep
  rw [← conv_afterTurn sl s]
  obtain e | ⟨hturn, hgate, hbusy, hset⟩ | ⟨hturn, hisr, he⟩ | ⟨hturn, hclear⟩ := heffect.coco sl
  · rw [e]
    exact ⟨fun hs ht => absurd (hs.symm.trans ht) nofun, fun hs ht => absurd (hs.symm.trans ht) nofun⟩
  · exact ⟨fun _ _ => ⟨hturn, hgate, hbusy⟩, fun _ ht => absurd (hset.symm.trans ht) nofun⟩
  · exact ⟨fun hs ht => absurd (hs.symm.trans (he.coco_le ht)) nofun,
      fun hs ht => .inr ⟨hturn, hisr, he.coco_falls hs ht⟩⟩
  · exact ⟨fun _ ht => absurd (hclear.symm.trans ht) nofun, fun _ _ => .inl hturn⟩

/-! ### The output, the gates and the parameters -/

theorem adcIrqOut_eq_true_iff (s : State) :
    adcIrqOut s = true ↔ ∃ sl, (s.conv sl).coco = true ∧ (s.conv sl).ien = true := by
  simp only [adcIrqOut, Bool.or_eq_true, Bool.and_eq_true]
  constructor
  · rintro (h | h)
    · exact ⟨.a, h⟩
    · exact ⟨.b, h⟩
  · rintro ⟨sl, h⟩
    cases sl with
    | a => exact .inl h
    | b => exact .inr h

/-- The output registers are kept by a turn of any agent but the background context outside a dispatch and the reset. -/
theorem TurnEffect.output {s t : State} {x : Turn} (h : TurnEffect s x t) :
    (t.duty = s.duty ∧ t.outLevel = s.outLevel ∧ t.pin = s.pin) ∨ x = .powerCycle ∨
      (x = .background ∧ s.isr = .none ∧ s.bg ≠ .idle) := by
  cases h with
  | accept => rw [(acceptNext_frame s).1]; exact .inl ⟨rfl, rfl, rfl⟩
  | micro hbg hisr => exact .inr (.inr ⟨rfl, hisr, hbg⟩)
  | blocked => exact .inl ⟨rfl, rfl, rfl⟩
  | dispatch h => rw [h.frame]; exact .inl ⟨rfl, rfl, rfl⟩
  | complete => exact .inl (by simp)
  | setGate => exact .inl (by simp)
  | reset => exact .inr (.inl rfl)

/-- The line `adc_irq` rises with the completion of a slot that has `AD_IEN`, or with a background micro-step that sets
an `AD_IEN` (10_state.md R39). -/
theorem TurnEffect.adcIrqOut_rises {s t : State} {x : Turn} (h : TurnEffect s x t) (hs : adcIrqOut s = false)
    (ht : adcIrqOut t = true) :
    (∃ sl v, x = .convComplete sl v ∧ s.gateAdc = true ∧ (s.conv sl).busy = true ∧ (s.conv sl).ien = true) ∨
      (x = .background ∧ s.isr = .none ∧ s.bg ≠ .idle ∧
        ∃ sl, (s.conv sl).coco = true ∧ (s.conv sl).ien = false ∧ (t.conv sl).ien = true) := by
  have hlow : ∀ sl, (s.conv sl).coco = true → (s.conv sl).ien = true → False := by
    intro sl hcoco hien
    exact Bool.false_ne_true (hs.symm.trans ((adcIrqOut_eq_true_iff s).mpr ⟨sl, hcoco, hien⟩))
  obtain ⟨sl, hcoco, hien⟩ := (adcIrqOut_eq_true_iff t).mp ht
  cases h with
  | accept => rw [conv_acceptNext] at hcoco hien; exact (hlow sl hcoco hien).elim
  | micro hbg hisr hkept he =>
    have hcoco' := he.coco_le hcoco
    exact .inr ⟨rfl, hisr, hbg, sl, hcoco', Bool.not_eq_true _ ▸ hlow sl hcoco', hien⟩
  | blocked => exact (hlow sl hcoco hien).elim
  | dispatch h => rw [h.conv] at hcoco hien; exact (hlow sl hcoco hien).elim
  | @complete sm v hgate hbusy =>
    rw [conv_setConv] at hcoco hien
    split at hien
    · exact .inl ⟨sm, v, rfl, hgate, hbusy, hien⟩
    · rw [if_neg ‹_›] at hcoco
      exact (hlow sl hcoco hien).elim
  | setGate => rw [conv_setGate] at hcoco hien; exact (hlow sl hcoco hien).elim
  | reset => exact absurd ((coco_powerCycle s sl).symm.trans hcoco) nofun

theorem gate_setGate (g h : Gate) (v : Bool) (s : State) : (s.setGate g v).gate h = if h = g then v else s.gate h := by
  cases g <;> cases h <;> rfl

theorem TurnEffect.gates {s t : State} {x : Turn} (h : TurnEffect s x t) (g : Gate) (hne : t.gate g ≠ s.gate g) :
    x = .setGate g (t.gate g) := by
  cases h with
  | accept => exact absurd (by rw [(acceptNext_frame s).1]; rfl) hne
  | micro hbg hisr hkept => exact absurd (hkept.gate g) hne
  | blocked => exact absurd rfl hne
  | dispatch h => exact absurd (by rw [h.frame]; rfl) hne
  | complete => exact absurd (gate_setConv _ _ _ s) hne
  | setGate g' v =>
    rw [gate_setGate] at hne ⊢
    split at hne
    · rename_i e
      rw [if_pos e, e]
    · exact absurd rfl hne
  | reset => exact absurd rfl hne

theorem TurnEffect.cfg {s t : State} {x : Turn} (h : TurnEffect s x t) : t.cfg = s.cfg := by
  cases h with
  | accept => rw [(acceptNext_frame s).1]
  | micro hbg hisr hkept => exact hkept.cfg
  | blocked | reset => rfl
  | dispatch h => rw [h.frame]
  | complete => exact State.setConv_cfg _ _ s
  | setGate => exact State.setGate_cfg _ _ s

/-- Settles O55: each clause is one fact about all that a turn can do; a turn of the host writes its gate alone. -/
theorem outputAndGatesHaveSoleWriters : Obligations.OutputAndGatesHaveSoleWriters := by
  refine ⟨fun s t hstep => ?_, fun s => ⟨rfl, adcIrqOut_eq_true_iff s⟩, fun s g v hturn => ?_⟩
  · have heffect := turnEffect_step hstep
    refine ⟨fun hne => ?_, fun hs ht => ?_, fun g hne => heffect.gates g (by rwa [gate_afterTurn]), heffect.cfg⟩
    · obtain ⟨hduty, hlevel, hpin⟩ | hwriter := heffect.output
      · obtain hne | hne | hne | hne := hne
        · exact absurd hduty hne
        · exact absurd hlevel hne
        · exact absurd hpin hne
        · exact absurd hpin hne
      · exact hwriter
    · obtain ⟨sl, v, hcomplete⟩ | hmicro := heffect.adcIrqOut_rises (s := afterTurn s) hs ht
      · exact .inl ⟨sl, v, by simpa using hcomplete⟩
      · exact .inr (by simpa using hmicro)
  · rw [step_eq_takeTurn, hturn, takeTurn]
    cases g <;> rfl

/-! ### `TICK` -/

/-- Settles O54: of all that a turn can do, only line 6 with the tick handler registered, and the reset, touch `TICK`. -/
theorem tickWrittenOnlyByTickHandler : Obligations.TickWrittenOnlyByTickHandler := by
  intro s t hstep hne
  have heffect := turnEffect_step hstep
  generalize nextTurn s = x at heffect
  cases heffect with
  | accept => exact absurd (by rw [(acceptNext_frame (afterTurn s)).1]; rfl) hne
  | micro hbg hisr hkept => exact absurd hkept.tick hne
  | blocked => exact absurd rfl hne
  | dispatch h =>
    obtain hsame | ⟨rfl, hline6, rfl⟩ := h.tick
    · exact absurd hsame hne
    · obtain ⟨-, e⟩ | ⟨-, htick, e⟩ | ⟨-, -, e⟩ := invoke_cases (afterTurn s) <;> rw [e] at hne ⊢
      · exact absurd rfl hne
      · exact .inr ⟨rfl, hline6, htick, fun hlt => tickHandler_tick_toNat (s := afterTurn s) hlt⟩
      · exact absurd rfl hne
  | complete => exact absurd (by simp) hne
  | setGate => exact absurd (by simp) hne
  | reset => exact .inl rfl

/-! ### The sticky bits and the response -/

theorem Effect.stErr_falls {s t : State} (h : Effect s t) {k : Nat} (hs : s.stErr.getLsbD k = true)
    (ht : t.stErr.getLsbD k = false) : ∃ v : Word, decode (latched s) = .ok (.ralwr 0x81 v) ∧ v.getLsbD k = true := by
  obtain ⟨u, hw, hm⟩ := h
  obtain ⟨st, e⟩ := hm.stErr
  rw [e, BitVec.getLsbD_or, Bool.or_eq_false_iff] at ht
  obtain e | ⟨v, hdecode, e⟩ := hw.stErr
  · rw [e, hs] at ht
    exact absurd ht.1 nofun
  · have hk : k < 7 := BitVec.lt_of_getLsbD hs
    refine ⟨v, hdecode, ?_⟩
    have hbit := ht.1
    rw [e, BitVec.getLsbD_and, hs, BitVec.getLsbD_not, BitVec.getLsbD_setWidth] at hbit
    simpa [hk] using hbit

/-- Settles O59: every other turn keeps `ST_ERR`, and of a background micro-step's writes only that of `ST_ERR` clears. -/
theorem stickyErrorClearedOnlyByWrite : Obligations.StickyErrorClearedOnlyByWrite := by
  intro s t k hstep hs ht
  have heffect := turnEffect_step hstep
  have hsame : t.stErr = s.stErr → False := fun e => by rw [e, hs] at ht; cases ht
  generalize nextTurn s = x at heffect
  cases heffect with
  | accept => exact (hsame (by rw [(acceptNext_frame (afterTurn s)).1]; rfl)).elim
  | micro hbg hisr hkept he => exact .inr ⟨rfl, hisr, he.stErr_falls (s := afterTurn s) hs ht⟩
  | blocked => exact (hsame rfl).elim
  | dispatch h => exact (hsame (by rw [h.frame]; rfl)).elim
  | complete => exact (hsame (by simp)).elim
  | setGate => exact (hsame (by simp)).elim
  | reset => exact .inl rfl

/-- A micro-step that opens the port again wrote the response. -/
theorem Effect.respond_of_idle {s t : State} (h : Effect s t) (ht : t.bg = .idle) : ∃ u st d, t = respond st d u := by
  obtain ⟨u, -, hm⟩ := h
  cases hm with
  | respond st d => exact ⟨u, st, d, rfl⟩
  | goto st hp => exact absurd ht hp
  | back st => cases ht

/-- A turn that produces a response is a micro-step of the background context. -/
theorem TurnEffect.respond_of_idle {s t : State} {x : Turn} (h : TurnEffect s x t) (hs : s.bg ≠ .idle)
    (ht : t.bg = .idle) (hx : x ≠ .powerCycle) : ∃ u st d, t = respond st d u := by
  have hsame : t.bg = s.bg → False := fun e => hs (e.symm.trans ht)
  cases h with
  | accept hbg => exact absurd hbg hs
  | micro hbg hisr hkept he => exact he.respond_of_idle ht
  | blocked => exact (hsame rfl).elim
  | dispatch h => exact (hsame (by rw [h.frame])).elim
  | complete => exact (hsame (State.setConv_bg _ _ s)).elim
  | setGate => exact (hsame (State.setGate_bg _ _ s)).elim
  | reset => exact absurd rfl hx

/-- What a response records (60_exceptions.md R133). -/
theorem respond_records (st : Status) (d : Word) (s : State) :
    (respond st d s).rspStatus.toNat ≤ 6 ∧
      ((respond st d s).rspStatus ≠ 0#4 →
        (respond st d s).stErr.getLsbD (respond st d s).rspStatus.toNat = true ∧ faultOut (respond st d s) = true) := by
  have hcode : (BitVec.ofNat 4 (statusCode st)).toNat = statusCode st := by cases st <;> rfl
  rw [respond_rspStatus, hcode]
  refine ⟨statusCode_le st, fun hne => ?_⟩
  have hsticky : (stickyBit st).getLsbD (statusCode st) = true := by
    cases st with
    | ok => exact absurd rfl hne
    | _ => decide
  have hbit : (respond st d s).stErr.getLsbD (statusCode st) = true := by
    rw [respond_stErr, BitVec.getLsbD_or, hsticky, Bool.or_true]
  refine ⟨hbit, decide_eq_true fun hzero => ?_⟩
  rw [hzero, BitVec.getLsbD_zero] at hbit
  cases hbit

/-- Settles O60: a step that produces a response ends in `respond`, which writes the code to both places and notes it. -/
theorem responseRecordsStatus : Obligations.ResponseRecordsStatus := by
  intro s t hstep hresponds
  obtain ⟨hs, ht, hturn⟩ := of_decide_eq_true hresponds
  obtain ⟨u, st, d, rfl⟩ := (turnEffect_step hstep).respond_of_idle hs ht hturn
  exact ⟨rfl, respond_records st d u⟩

end Sys2Proof.Machine
end

section
/-! PROOFS. `RALWR` of a legal value (40_ral.md R82, R86) and `CBREG` (41_timer_scheduler.md R93): what is stored, and what
keeps its value. -/

namespace Sys2Proof.Machine

open Sys2Proof

/-! ### The fields after a store and a response -/

/-- A response `OK` changes no field but `ST_LAST`. -/
theorem getField_respond_ok {g : Field} (h : g ≠ .stLast) (d : Word) (s : State) :
    getField g (respond .ok d s) = getField g s := by
  by_cases hreg : fieldReg g = .status
  · cases g with
    | stLast => exact absurd rfl h
    | stErr => simp [respond_ok, getField]
    | _ => cases hreg
  · exact getField_respond hreg _ _ s

/-- The start of a conversion changes no field but the slot's completion flag. -/
theorem getField_startConversion {g : Field} {sl : Slot} (h : g ≠ .adCoco sl) (s : State) :
    getField g (startConversion sl s) = getField g s := by
  cases g with
  | adCoco sm =>
    have hne : sm ≠ sl := by rintro rfl; exact h rfl
    simp [getField, hne]
  | adCh sm | adDiff sm | adIen sm | adR sm => by_cases e : sm = sl <;> simp [getField, e]
  | _ => simp [getField]

/-- Storing a value in a writable field, the start of a conversion apart. -/
theorem getField_ralStore {f g : Field} (hrw : fieldAcc f = .rw) (hg : ∀ sl, f = .adCh sl → g ≠ .adCoco sl) (v : Word)
    (s : State) : getField g (ralStore f v s) = getField g (putField f v s) := by
  cases f with
  | adCh sl =>
    have hstore : ralStore (.adCh sl) v s = startConversion sl (putField (.adCh sl) v s) := by
      rw [← fieldWrite_eq rfl]
      rfl
    rw [hstore, getField_startConversion (hg sl rfl)]
  | _ => rw [ralStore_of_rw hrw nofun]

/-- A legal value has no bit above its field's width. -/
theorem legal_and_mask {f : Field} {v : Word} (hrw : fieldAcc f = .rw) (hv : fieldLegal f v = true) :
    v &&& maskOf (fieldWidth f) = v := by
  refine and_maskOf_of_lt _ _ ?_
  by_cases hf : f = .duty
  · subst hf
    have hle : v.toNat ≤ 100 := by simpa [fieldLegal, fieldAcc] using hv
    exact hle.trans_lt (by decide)
  · simpa [fieldLegal, hrw, hf] using hv

theorem draws_putField (f : Field) (v : Word) (s : State) : (putField f v s).draws = s.draws := by
  cases f <;> simp [putField]

theorem draws_ralStore (f : Field) (v : Word) (s : State) (hrw : fieldAcc f = .rw) :
    (ralStore f v s).draws = s.draws := by
  cases f with
  | adCh sl => rw [ralStore_adCh, State.setConv_draws]
  | _ => rw [ralStore_of_rw hrw nofun, draws_putField]

/-- A legal code is 31 in the field exactly when it is 31 in the operand. -/
theorem code_disabled_iff {sl : Slot} {v : Word} (hv : fieldLegal (.adCh sl) v = true) :
    v.setWidth 5 = 31#5 ↔ v = 31#32 := by
  have hlt : v.toNat < 32 := of_decide_eq_true hv
  rw [BitVec.toNat_eq, BitVec.toNat_eq, BitVec.toNat_setWidth, Nat.mod_eq_of_lt hlt]
  rfl

theorem busy_putField {f : Field} (v : Word) (s : State) (sl : Slot) :
    ((putField f v s).conv sl).busy = (s.conv sl).busy := by
  cases f with
  | adCh sm | adDiff sm | adIen sm | adCoco sm | adR sm => by_cases e : sl = sm <;> simp [putField, e]
  | tLoad | tEn | tIe | tChn | tIf => simp [putField]
  | _ => rfl

theorem busy_ralStore {f : Field} (hrw : fieldAcc f = .rw) (v : Word) (s : State) {sl : Slot} (hf : f ≠ .adCh sl) :
    ((ralStore f v s).conv sl).busy = (s.conv sl).busy := by
  cases f with
  | adCh sm =>
    have hne : sl ≠ sm := by rintro rfl; exact hf rfl
    rw [ralStore_adCh, conv_setConv, if_neg hne]
  | _ => rw [ralStore_of_rw hrw nofun, busy_putField]

theorem getField_ralStore_self {f : Field} {v : Word} (hrw : fieldAcc f = .rw) (hv : fieldLegal f v = true)
    (s : State) : getField f (ralStore f v s) = v := by
  rw [getField_ralStore hrw (by rintro sl rfl; nofun), getField_putField_self, legal_and_mask hrw hv]

theorem ne_stLast_of_rw {f : Field} (hrw : fieldAcc f = .rw) : f ≠ .stLast := by
  rintro rfl
  cases hrw

/-- Settles O15: the micro-step is a store and the response `OK`, and each field is read through both. -/
theorem ralwrStoresLegalValue : Obligations.RalwrStoresLegalValue := by
  intro fid f v s hf hrw hv hgate
  have hexec : exec (.ralwr fid v) s = .next (respond .ok 0#32 (ralStore f v s)) :=
    exec_ralwr_of_legal hf (by rw [hrw]; nofun) hgate hv
  have hkept := kept_exec hexec
  refine ⟨_, hexec, ?_, fun g hgf hlast hcoco => ?_, ?_, fun sl hch => ?_, rfl, rfl, rfl, rfl, hkept.isr, hkept.cfg,
    hkept.gate, hkept.latched, hkept.commands, hkept.turns, draws_ralStore f v s hrw⟩
  · rw [getField_respond_ok (ne_stLast_of_rw hrw), getField_ralStore_self hrw hv]
  · rw [getField_respond_ok hlast, getField_ralStore hrw hcoco, getField_putField_of_ne hgf]
  · rintro sl rfl
    rw [conv_respond, ralStore_adCh, conv_setConv, if_pos rfl]
    exact ⟨rfl, by simp only [ConvSlot.start, ne_eq, code_disabled_iff hv]⟩
  · rw [conv_respond, busy_ralStore hrw v s hch]

/-- Settles O16: both stores clear the bits written as 1, and the response `OK` sets no sticky bit. -/
theorem ralwrClearsFlagBits : Obligations.RalwrClearsFlagBits := by
  constructor
  · intro fid c s b hf hup
    have hgate : ∀ g, regGate (fieldReg (.tIf c)) = some g → s.gate g = true := by
      rintro _ ⟨⟩
      exact hup
    have hlegal : fieldLegal (.tIf c) (bitWord b) = true := by cases b <;> rfl
    rw [exec_ralwr_of_legal hf nofun hgate hlegal, ralStore_tIf, respond_ok, bitWord_getLsbD_zero]
  · intro v s
    have hlegal : fieldLegal .stErr (v.setWidth 32) = true := by
      refine decide_eq_true ?_
      rw [BitVec.toNat_setWidth]
      exact (Nat.mod_le _ _).trans_lt v.isLt
    have hwidth : (v.setWidth 32).setWidth 7 = v := by simp
    rw [exec_ralwr_of_legal (f := .stErr) rfl nofun nofun hlegal, ralStore_stErr, respond_ok, hwidth]

/-- Settles O17: the read answers the field's stored value, which the write has left at `v`. -/
theorem ralRoundTrip : Obligations.RalRoundTrip := by
  intro fid f v s hf hrw hv hgate
  have hwrite : exec (.ralwr fid v) s = .next (respond .ok 0#32 (ralStore f v s)) :=
    exec_ralwr_of_legal hf (by rw [hrw]; nofun) hgate hv
  have hgate' : ∀ g, regGate (fieldReg f) = some g → (respond .ok 0#32 (ralStore f v s)).gate g = true :=
    fun g hg => by rw [(kept_exec hwrite).gate]; exact hgate g hg
  refine ⟨_, _, hwrite, by rw [exec_ralrd_of_known hf, gatedField_of_up hgate', finish_ok], rfl, ?_⟩
  rw [respond_rspData, getField_respond_ok (ne_stLast_of_rw hrw), getField_ralStore_self hrw hv]

/-- Settles O23: a store of the handle and the response `OK`. -/
theorem cbregReplacesCallback : Obligations.CbregReplacesCallback := by
  intro h s
  rw [exec, execCbreg, respond_ok]

end Sys2Proof.Machine
end

section
/-! PROOFS. The Conversion Sequencer (42_conversion_sequencer.md): the two micro-steps of `ADSEL` (R100), the polls of
`ADWAIT` (R104, R106), the read of `ADREAD` (R107), and the completion of a conversion (R110). -/

namespace Sys2Proof.Machine

open Sys2Proof

/-! ### An invalid slot -/

theorem exec_adsel_of_invalid {slot : Nat} (h : slotOf slot = none) (code : Nat) (diff : Bool) (s : State) :
    exec (.adsel slot code diff) s = .next (respond .invalidChannelIndex 0#32 s) := by
  simp [exec, execAdsel, h]

theorem exec_adwait_of_invalid {slot : Nat} (h : slotOf slot = none) (s : State) :
    exec (.adwait slot) s = .next (respond .invalidChannelIndex 0#32 s) := by
  simp [exec, execAdwait, h]

theorem exec_adread_of_invalid {slot : Nat} (h : slotOf slot = none) (s : State) :
    exec (.adread slot) s = .next (respond .invalidChannelIndex 0#32 s) := by
  simp [exec, execAdread, h]

theorem slotOf_of_two_le {slot : Nat} (h : 2 ≤ slot) : slotOf slot = none := by
  obtain ⟨n, rfl⟩ := Nat.exists_eq_add_of_le' h
  rfl

/-- Settles O26: each of the three operations answers the index with the response alone, before any gate. -/
theorem invalidSlotLeavesRegisters : Obligations.InvalidSlotLeavesRegisters := by
  intro slot i s hslot hi
  have hnone : slotOf slot = none := slotOf_of_two_le hslot
  have hexec : exec i s = .next (respond .invalidChannelIndex 0#32 s) := by
    rcases hi with ⟨code, diff, rfl⟩ | rfl | rfl
    · exact exec_adsel_of_invalid hnone code diff s
    · exact exec_adwait_of_invalid hnone s
    · exact exec_adread_of_invalid hnone s
  exact ⟨_, hexec, respond_invalidChannelIndex _ s, registersKept_respond _ _ s⟩

/-! ### `ADSEL` -/

/-- The response of a select (42_conversion_sequencer.md R100): `OK` exactly when the written code is the requested
one. -/
theorem respond_selectStatus (cfg : Config) (code : Nat) (diff : Bool) (d : Word) (s : State) :
    respond (selectStatus cfg code diff) d s = { s with
      rspStatus := if resolve cfg code diff = code then 0#4 else 2#4
      rspData := d
      stLast := if resolve cfg code diff = code then 0#4 else 2#4
      stErr := if resolve cfg code diff = code then s.stErr else s.stErr ||| 0b0000100#7
      bg := .idle } := by
  by_cases h : resolve cfg code diff = code
  · simp only [selectStatus, if_pos h, respond_ok]
  · simp only [selectStatus, if_neg h]
    rfl

theorem setConv_advance (sl : Slot) (v : ConvSlot) (k : Micro) (s : State) :
    (advance k s).setConv sl v = advance k (s.setConv sl v) := by
  cases sl <;> rfl

section
variable {slot : Nat} {sl : Slot} {s : State} (hsl : slotOf slot = some sl)
include hsl

theorem exec_adsel_of_down (code : Nat) (diff : Bool) (hdown : s.gateAdc = false) :
    exec (.adsel slot code diff) s = .fault (.ungatedAccess .adc) := by
  simp only [exec, execAdsel, hsl]
  split
  · rw [selectCode, gatedAdc_of_down hdown, map_error, finish_error]
  · rw [selectMode, gatedAdc_of_down hdown, map_error, finish_error]

theorem exec_adsel_first (code : Nat) (diff : Bool) (hup : s.gateAdc = true) (hbg : s.bg = .exec .first) :
    exec (.adsel slot code diff) s = .next (advance .adselCode (s.setConv sl { s.conv sl with diff := diff })) := by
  simp [exec, execAdsel, hsl, hbg, selectMode_of_up hup]

theorem exec_adsel_code (code : Nat) (diff : Bool) (hup : s.gateAdc = true) (hbg : s.bg = .exec .adselCode) :
    exec (.adsel slot code diff) s =
      .next (respond (selectStatus s.cfg code diff) (BitVec.ofNat 32 (resolve s.cfg code diff))
        (s.setConv sl ((s.conv sl).start (BitVec.ofNat 5 (resolve s.cfg code diff))))) := by
  simp [exec, execAdsel, hsl, hbg, selectCode_of_up hup]

end

/-- Settles O25: the two positions in a row; the code that the second writes fits the field, so its value decides the
start. -/
theorem adselWritesModeThenCode : Obligations.AdselWritesModeThenCode := by
  intro slot code diff s
  refine ⟨fun hnone => ?_, fun sl hsl hdown => exec_adsel_of_down hsl code diff hdown, fun sl hsl hup hbg => ?_⟩
  · rw [exec_adsel_of_invalid hnone, respond_invalidChannelIndex]
  · have hcode := exec_adsel_code (s := advance .adselCode (s.setConv sl { s.conv sl with diff := diff })) hsl code diff
      (by simpa using hup) rfl
    simp only [start_resolve, setConv_advance, conv_advance, advance_cfg, State.setConv_cfg, conv_setConv,
      setConv_setConv, if_true, respond_selectStatus] at hcode
    exact ⟨_, _, exec_adsel_first hsl code diff hup hbg, hcode, rfl, by simp⟩

/-! ### `ADWAIT` -/

/-- The count that a wait started with bound `tmo` has left after `n` polls; 0 throughout when there is no bound. -/
def pollsLeft (tmo : Word) (n : Nat) : Word := BitVec.ofNat 32 (tmo.toNat - n)

@[simp] theorem pollsLeft_zero (tmo : Word) : pollsLeft tmo 0 = tmo := by
  simp [pollsLeft]

theorem pollsLeft_toNat (tmo : Word) (n : Nat) : (pollsLeft tmo n).toNat = tmo.toNat - n := by
  rw [pollsLeft, BitVec.toNat_ofNat, Nat.mod_eq_of_lt ((Nat.sub_le _ _).trans_lt tmo.isLt)]

theorem pollsLeft_unbounded (n : Nat) : pollsLeft 0#32 n = 0#32 := by
  simp [pollsLeft]

/-- A poll of a flag that is 0, before the bound is reached or with no bound, goes on. -/
theorem pollFlag_pollsLeft {tmo : Word} {n : Nat} (h : tmo = 0#32 ∨ n + 1 < tmo.toNat) :
    pollFlag false tmo (pollsLeft tmo n) = .again (pollsLeft tmo (n + 1)) := by
  obtain rfl | hlt := h
  · simp only [pollsLeft_unbounded, pollFlag_unbounded]
  · have hbound : tmo ≠ 0#32 := by rintro rfl; simp at hlt
    have hleft := pollsLeft_toNat tmo n
    rw [pollFlag_counts hbound (by omega)]
    congr 1
    apply BitVec.eq_of_toNat_eq
    rw [BitVec.toNat_sub_of_le (by rw [BitVec.le_def, hleft]; show 1 ≤ _; omega), hleft, pollsLeft_toNat]
    show _ - 1 = _
    omega

/-- The poll that reaches the bound ends the wait. -/
theorem pollFlag_pollsLeft_last {tmo : Word} {n : Nat} (h : n + 1 = tmo.toNat) :
    pollFlag false tmo (pollsLeft tmo n) = .ended .conversionTimeout := by
  have hbound : tmo ≠ 0#32 := by rintro rfl; simp at h
  have hone : pollsLeft tmo n = 1#32 := by
    apply BitVec.eq_of_toNat_eq
    rw [pollsLeft_toNat]
    show _ = 1
    omega
  rw [hone, pollFlag_last hbound]

/-- The micro-steps of one instruction, one more at the end. -/
theorem execTimes_add {i : Instr} {m : Nat} (n : Nat) {s t : State} (h : execTimes i m s = .next t) :
    execTimes i (m + n) s = execTimes i n t := by
  induction m generalizing s with
  | zero =>
    obtain rfl := Host.Outcome.next.inj h
    rw [Nat.zero_add]
  | succ m ih =>
    rw [Nat.succ_add]
    simp only [execTimes] at h ⊢
    split at h
    · exact ih h
    · cases h
    · cases h

theorem execTimes_one (i : Instr) (s : State) : execTimes i 1 s = exec i s := by
  simp only [execTimes]
  split <;> simp_all

section
variable {slot : Nat} {sl : Slot} {s : State} (hsl : slotOf slot = some sl) (hup : s.gateAdc = true)
include hsl hup

theorem exec_adwait_first (hbg : s.bg = .exec .first) :
    exec (.adwait slot) s = .next (afterPoll s.adTmo s (pollFlag (s.conv sl).coco s.adTmo s.adTmo)) := by
  simp [exec, execAdwait, hsl, hbg, pollSlot_of_up hup]

theorem exec_adwait_poll {bound left : Word} (hbg : s.bg = .exec (.adwaitPoll bound left)) :
    exec (.adwait slot) s = .next (afterPoll bound s (pollFlag (s.conv sl).coco bound left)) := by
  simp [exec, execAdwait, hsl, hbg, pollSlot_of_up hup]

/-- A flag that is 1 ends the wait at either poll. -/
theorem exec_adwait_of_flag (hflag : (s.conv sl).coco = true) :
    exec (.adwait slot) s = .next (respond .ok 0#32 s) := by
  simp only [exec, execAdwait, hsl]
  split <;> simp [pollSlot_of_up hup, hflag, afterPoll]

/-- While the flag is 0 and the bound is not reached, `n + 1` micro-steps are `n + 1` polls and change the position
alone (42_conversion_sequencer.md R104). -/
theorem execTimes_adwait (hflag : (s.conv sl).coco = false) (hbg : s.bg = .exec .first) (n : Nat)
    (hn : s.adTmo = 0#32 ∨ n + 1 < s.adTmo.toNat) :
    execTimes (.adwait slot) (n + 1) s = .next (advance (.adwaitPoll s.adTmo (pollsLeft s.adTmo (n + 1))) s) := by
  induction n with
  | zero =>
    have hpoll := pollFlag_pollsLeft hn
    rw [pollsLeft_zero] at hpoll
    rw [execTimes_one, exec_adwait_first hsl hup hbg, hflag, hpoll]
    rfl
  | succ n ih =>
    rw [execTimes_add 1 (ih (hn.imp id (by omega))), execTimes_one, exec_adwait_poll hsl (by exact hup) rfl,
      conv_advance, hflag, pollFlag_pollsLeft hn]
    rfl

theorem execTimes_adwait_last (hflag : (s.conv sl).coco = false) (hbg : s.bg = .exec .first) {n : Nat}
    (hn : n + 1 = s.adTmo.toNat) :
    execTimes (.adwait slot) (n + 1) s = .next (respond .conversionTimeout 0#32 s) := by
  have hpoll := pollFlag_pollsLeft_last hn
  cases n with
  | zero =>
    rw [pollsLeft_zero] at hpoll
    rw [execTimes_one, exec_adwait_first hsl hup hbg, hflag, hpoll]
    rfl
  | succ n =>
    rw [execTimes_add 1 (execTimes_adwait hsl hup hflag hbg n (.inr (by omega))), execTimes_one,
      exec_adwait_poll hsl (by exact hup) rfl, conv_advance, hflag, hpoll]
    rfl

end

/-- Settles O27: whichever poll it is, a flag that is 1 ends the wait with the response alone. -/
theorem adwaitEndsWhenFlagReadsOne : Obligations.AdwaitEndsWhenFlagReadsOne := by
  intro slot sl s hsl hup hflag
  rw [exec_adwait_of_flag hsl hup hflag, respond_ok]

/-- Settles O28: the polls before the last count down, by induction on their number, and the last one times out. -/
theorem adwaitTimesOutAfterBound : Obligations.AdwaitTimesOutAfterBound := by
  intro slot sl s hsl hup hflag hbg hbound
  have hpos : 0 < s.adTmo.toNat := Nat.pos_of_ne_zero fun h => hbound (BitVec.eq_of_toNat_eq h)
  constructor
  · obtain ⟨n, hn⟩ := Nat.exists_eq_add_of_le' hpos
    rw [hn, execTimes_adwait_last hsl hup hflag hbg hn.symm]
    rfl
  · intro n hn hlt
    obtain ⟨m, rfl⟩ := Nat.exists_eq_add_of_le' hn
    exact ⟨_, _, execTimes_adwait hsl hup hflag hbg m (.inr hlt), rfl, pollsLeft_toNat _ _⟩

/-- Settles O29: with no bound every poll is one that goes on, and the count stays 0. -/
theorem adwaitUnboundedPollsForever : Obligations.AdwaitUnboundedPollsForever := by
  intro slot sl s n hsl hup hflag hbg hbound
  have hpolls := execTimes_adwait hsl hup hflag hbg n (.inl hbound)
  rw [hbound, pollsLeft_unbounded] at hpolls
  exact hpolls

/-! ### `ADREAD` -/

theorem exec_adread_of_valid {slot : Nat} {sl : Slot} {s : State} (hsl : slotOf slot = some sl)
    (hup : s.gateAdc = true) :
    exec (.adread slot) s = .next (respond .ok (resultValue sl s) (afterRead sl s)) := by
  simp [exec, execAdread, hsl, readSlot_of_up hup]

/-- A result read gives a 16-bit value, the free one too (42_conversion_sequencer.md R107, R108). -/
theorem resultValue_lt (sl : Slot) (s : State) : (resultValue sl s).toNat < 2 ^ 16 := by
  unfold resultValue
  split <;> rw [BitVec.toNat_setWidth] <;> exact (Nat.mod_le _ _).trans_lt (BitVec.isLt _)

/-- A result read changes no field but the slot's completion flag. -/
theorem getField_afterRead {f : Field} {sl : Slot} (h : f ≠ .adCoco sl) (s : State) :
    getField f (afterRead sl s) = getField f s := by
  have hdraws : getField f (afterRead sl s) =
      getField f (s.setConv sl { s.conv sl with coco := (s.conv sl).coco && !s.cfg.cocoClearOnRead }) := by
    cases f <;> rfl
  rw [hdraws]
  cases f with
  | adCoco sm =>
    have hne : sm ≠ sl := by rintro rfl; exact h rfl
    simp [getField, hne]
  | adCh sm | adDiff sm | adIen sm | adR sm => by_cases e : sm = sl <;> simp [getField, e]
  | _ => simp [getField]

/-- Settles O30: the micro-step is the result read and the response `OK`; its value is the result of an idle slot. -/
theorem adreadReturnsResult : Obligations.AdreadReturnsResult := by
  intro slot sl s hsl hup
  refine ⟨_, exec_adread_of_valid hsl hup, rfl, rfl, rfl, fun hidle => resultValue_of_idle hidle, resultValue_lt sl s,
    ?_, fun sm hne => ?_, fun r hr hsc => ?_, ?_, ?_⟩
  · rw [conv_respond, conv_afterRead, if_pos rfl]
    cases s.cfg.cocoClearOnRead <;> simp
  · rw [conv_respond, conv_afterRead, if_neg hne]
  · rw [registersKept_respond _ _ _ r hr]
    refine regRead_congr fun g hg => getField_afterRead ?_ s
    rintro rfl
    exact hsc (fieldReg_of_mem hg).symm
  · rw [respond_ok]
    cases sl <;> rfl
  · cases sl <;> rfl

/-! ### `ConvComplete` -/

theorem step_convComplete {s : State} {sl : Slot} {x : BitVec 16} (h : nextTurn s = .convComplete sl x) :
    step s = .next (convComplete sl x (afterTurn s)) := by
  rw [step_eq_takeTurn, h]
  rfl

theorem sampleAdmitted_iff (sl : Slot) (x : BitVec 16) (s : State) :
    sampleAdmitted sl x s = true ↔
      (s.conv sl).diff = true ∨ (s.conv sl).ch = 24#5 ∨ (s.conv sl).ch = 25#5 ∨ (s.conv sl).ch = 28#5 ∨
        x.toNat < 2 ^ resBits s.cfg s.adMode := by
  simp only [sampleAdmitted, Bool.or_eq_true, decide_eq_true_eq, or_assoc]

theorem convComplete_of_enabled {s : State} {sl : Slot} {x : BitVec 16} (hup : s.gateAdc = true)
    (hbusy : (s.conv sl).busy = true) (hx : sampleAdmitted sl x s = true) :
    convComplete sl x s = s.setConv sl { s.conv sl with result := x, coco := true, busy := false } :=
  if_pos ⟨hup, hbusy, hx⟩

theorem setConv_afterTurn (sl : Slot) (v : ConvSlot) (s : State) :
    (afterTurn s).setConv sl v = afterTurn (s.setConv sl v) := by
  cases sl <;> rfl

/-- Settles O32: the event is `convComplete`, whose three conditions are the gate, a busy slot and an admitted value. -/
theorem convCompleteWritesResult : Obligations.ConvCompleteWritesResult := by
  intro s sl x hturn
  rw [step_convComplete hturn]
  refine ⟨fun hup hbusy hx => ?_, fun hdisabled => ?_, fun hdiff h24 h25 h28 hx => ?_⟩
  · rw [convComplete_of_enabled (s := afterTurn s) hup (by simpa using hbusy)
      (by rw [sampleAdmitted_iff]; simpa using hx), setConv_afterTurn, conv_afterTurn, afterTurn, State.setConv_turns]
  · refine congrArg _ (if_neg ?_)
    rintro ⟨hup, hbusy, -⟩
    rw [conv_afterTurn] at hbusy
    obtain hdown | hidle := hdisabled
    · exact absurd (hdown.symm.trans hup) nofun
    · exact absurd (hidle.symm.trans hbusy) nofun
  · refine congrArg _ (if_neg ?_)
    rintro ⟨-, -, hadmitted⟩
    rw [sampleAdmitted_iff] at hadmitted
    simp only [conv_afterTurn, afterTurn_cfg, afterTurn_adMode, hdiff, h24, h25, h28, false_or, Bool.false_eq_true] at hadmitted
    omega

end Sys2Proof.Machine
end

section
/-! PROOFS. An access of a register whose clock gate is 0 faults (20_memory.md R62), micro-step by micro-step. -/

namespace Sys2Proof.Machine

open Sys2Proof

theorem gated_of_down {α : Type} {g : Gate} {s : State} (h : s.gate g = false) (a : α) :
    gated g s a = .error (.ungatedAccess g) :=
  gated_error_iff.mpr ⟨h, rfl⟩

section
variable {s : State}

theorem exec_tstart_of_down {ch : Nat} {c : Chan} (hch : chanOf ch = some c) (hdown : s.gateTmr = false) :
    exec (.tstart ch) s = .fault (.ungatedAccess .tmr) := by
  rw [exec_tstart_of_valid hch, writeRunState_of_down hdown, map_error, finish_error]

theorem exec_tstop_of_down {ch : Nat} {c : Chan} (hch : chanOf ch = some c) (hdown : s.gateTmr = false) :
    exec (.tstop ch) s = .fault (.ungatedAccess .tmr) := by
  rw [exec_tstop_of_valid hch, writeRunState_of_down hdown, map_error, finish_error]

theorem exec_adwait_of_down {slot : Nat} {sl : Slot} (hsl : slotOf slot = some sl) (hdown : s.gateAdc = false) :
    exec (.adwait slot) s = .fault (.ungatedAccess .adc) := by
  simp only [exec, execAdwait, hsl]
  split <;> rw [pollSlot, gatedAdc_of_down hdown, map_error, finish_error]

theorem exec_adread_of_down {slot : Nat} {sl : Slot} (hsl : slotOf slot = some sl) (hdown : s.gateAdc = false) :
    exec (.adread slot) s = .fault (.ungatedAccess .adc) := by
  simp only [exec, execAdread, hsl]
  rw [readSlot, gatedAdc_of_down hdown, map_error, finish_error]

theorem exec_ralwr_of_down {fid : Nat} {f : Field} {g : Gate} (hf : fieldOf fid = some f) (hacc : fieldAcc f ≠ .ro)
    (hg : regGate (fieldReg f) = some g) (hdown : s.gate g = false) (v : Word) :
    exec (.ralwr fid v) s = .fault (.ungatedAccess g) := by
  simp [exec, execRalwr, hf, hacc, gatedField_of_down hg hdown]

theorem exec_ralrd_of_down {fid : Nat} {f : Field} {g : Gate} (hf : fieldOf fid = some f)
    (hg : regGate (fieldReg f) = some g) (hdown : s.gate g = false) :
    exec (.ralrd fid) s = .fault (.ungatedAccess g) := by
  rw [exec_ralrd_of_known hf, gatedField_of_down hg hdown, finish_error]

/-- A line of an iteration that `loopGate` names a gate for (43_control_loop.md R121). -/
theorem loopStep_of_down {p : LoopPos} {g : Gate} (hp : loopGate p = some g) (hdown : s.gate g = false) :
    loopStep p s = .error (.ungatedAccess g) := by
  cases p with
  | line0 | duty | compare => cases hp
  | select slot c m =>
    cases hslot : slotOf slot.toNat with
    | none => simp [loopGate, hslot] at hp
    | some sl =>
      obtain rfl : Gate.adc = g := by simpa [loopGate, hslot] using hp
      simp only [loopStep, hslot]
      rw [selectMode, gated_of_down hdown, map_error]
  | code | wait | poll | read | drive =>
    cases hp
    exact (congrArg (Except.map _) (gated_of_down hdown _)).trans (map_error _ _)

/-- A line of `INIT` that `initGate` names a gate for (43_control_loop.md R127). -/
theorem initStep_of_down {a : InitArgs} {p : InitPos} {g : Gate} (hp : initGate a p = some g)
    (hdown : s.gate g = false) : initStep a p s = .error (.ungatedAccess g) := by
  cases p with
  | line1 | line2 | line3 | line4 => cases hp; exact gated_of_down hdown _
  | line5 =>
    cases hslot : slotOf a.sSlot with
    | none => simp [initGate, hslot] at hp
    | some sl =>
      obtain rfl : Gate.adc = g := by simpa [initGate, hslot] using hp
      simp only [initStep, hslot]
      exact gated_of_down hdown _
  | line6 | callback => cases hp
  | select =>
    cases hslot : slotOf a.sSlot with
    | none => simp [initGate, hslot] at hp
    | some sl =>
      obtain rfl : Gate.adc = g := by simpa [initGate, hslot] using hp
      simp only [initStep, hslot]
      rw [selectMode, gated_of_down hdown, map_error]
  | load s1 =>
    cases hindex : chanOf a.tIndex with
    | none => simp [initGate, hindex] at hp
    | some c =>
      obtain rfl : Gate.tmr = g := by simpa [initGate, hindex] using hp
      simp only [initStep, hindex]
      rw [writeLoad, gated_of_down hdown, map_error]
  | runState s1 s2 =>
    cases hindex : chanOf a.tIndex with
    | none => simp [initGate, hindex] at hp
    | some c =>
      obtain rfl : Gate.tmr = g := by simpa [initGate, hindex] using hp
      simp only [initStep, hindex]
      rw [writeRunState, gated_of_down hdown, map_error]
  | code | chain | arm =>
    cases hp
    exact (congrArg (Except.map _) (gated_of_down hdown _)).trans (map_error _ _)

theorem exec_loopit_of_loop {p : LoopPos} (hbg : s.bg = .exec (.loop p)) :
    exec .loopit s = finish ((loopStep p s).map loopitAfter) := by
  simp [exec, execLoopit, hbg]

theorem exec_init_of_init {a : InitArgs} {p : InitPos} (hbg : s.bg = .exec (.init p)) :
    exec (.init a) s = finish (initStep a p s) := by
  simp [exec, execInit, hbg]

/-- The entry needs the gate of the timer (60_exceptions.md R148). -/
theorem interruptTurn_entry_of_down (hisr : s.isr = .none) (hline : irqLine s = true) (hdown : s.gateTmr = false) :
    interruptTurn s = .error (.ungatedAccess .tmr) := by
  rw [interruptTurn, if_pos hisr, if_pos hline, takeInterrupt, gatedTmr_of_down hdown]

theorem spuriousTurn_entry_of_down (hisr : s.isr = .none) (hallow : s.cfg.allowSpurious = true)
    (hdown : s.gateTmr = false) : spuriousTurn s = .error (.ungatedAccess .tmr) := by
  rw [spuriousTurn, if_pos ⟨hisr, hallow⟩, takeInterrupt, gatedTmr_of_down hdown]

/-- So does every line that reads or writes a flag. -/
theorem dispatchStep_of_down (hflag : readsOrWritesFlag s.isr = true) (hdown : s.gateTmr = false) :
    dispatchStep s = .error (.ungatedAccess .tmr) := by
  unfold dispatchStep
  cases hpos : s.isr with
  | none | line6 | waiting | line7 => rw [hpos] at hflag; cases hflag
  | line1 | line2 | line5b => exact gatedTmr_of_down hdown _
  | line3 f0 f1 | line4 f0 f1 =>
    rw [hpos] at hflag
    exact (if_pos hflag).trans (gatedTmr_of_down hdown _)
  | line5 f0 f1 =>
    rw [hpos] at hflag
    have hboth : f0 = false ∧ f1 = false := by simpa [readsOrWritesFlag] using hflag
    exact (if_pos hboth).trans (gatedTmr_of_down hdown _)

theorem interruptTurn_line_of_down (hflag : readsOrWritesFlag s.isr = true) (hdown : s.gateTmr = false) :
    interruptTurn s = .error (.ungatedAccess .tmr) := by
  have hisr : s.isr ≠ .none := by
    intro hnone
    rw [hnone] at hflag
    cases hflag
  rw [interruptTurn_of_dispatch hisr, dispatchStep_of_down hflag hdown]

end

/-- Settles O10: the faults, operation by operation and line by line. -/
theorem ungatedAccessFaults : Obligations.UngatedAccessFaults := by
  intro s
  refine ⟨fun hdown => ⟨fun ch c load chained ie hch => ?_, fun hisr hturn hline => ?_, fun hisr hturn hallow => ?_,
    fun hturn hflag => ?_⟩, fun hdown slot sl code diff hsl => ?_, exec_pwmupd_of_down, fun fid f g v hf hg hdown => ?_,
    fun p g hp hdown => ⟨fun hbg => ?_, fun hbg => ?_⟩, fun a p g hp hdown hbg => ?_⟩
  · exact ⟨exec_tcfg_of_down hch load chained ie hdown, exec_tstart_of_down hch hdown, exec_tstop_of_down hch hdown⟩
  · rw [step_interrupt hturn, interruptTurn_entry_of_down (s := afterTurn s) hisr hline hdown, finish_error]
  · rw [step_spurious hturn, spuriousTurn_entry_of_down (s := afterTurn s) hisr hallow hdown, finish_error]
  · rw [step_interrupt hturn, interruptTurn_line_of_down (s := afterTurn s) hflag hdown, finish_error]
  · exact ⟨exec_adsel_of_down hsl code diff hdown, exec_adwait_of_down hsl hdown, exec_adread_of_down hsl hdown⟩
  · exact ⟨exec_ralrd_of_down hf hg hdown, fun hacc => exec_ralwr_of_down hf hacc hg hdown v⟩
  · rw [exec_loopit_of_loop hbg, loopStep_of_down hp hdown, map_error, finish_error]
  · rw [exec_run_of_run hbg, loopStep_of_down hp hdown, map_error, finish_error]
  · rw [exec_init_of_init hbg, initStep_of_down hp hdown, finish_error]

end Sys2Proof.Machine
end

section
/-! PROOFS. One iteration of the control loop (43_control_loop.md R121 to R126): its lines do not read the position or
the turns, so an iteration is one path of lines, performed by `LOOPIT` and by `RUN` alike. -/

namespace Sys2Proof.Machine

open Sys2Proof

/-! ### The lines do not read the position or the turns -/

/-- The same registers at another position, with other turns to come. -/
def relocate (p : Bg) (ts : List Turn) (s : State) : State := { s with bg := p, turns := ts }

section
variable (p : Bg) (ts : List Turn) (s : State)

theorem gated_relocate {α : Type} (g : Gate) (a : α) : gated g (relocate p ts s) a = gated g s a := by
  cases g <;> rfl

theorem map_gated {α β : Type} (g : Gate) (f : α → β) (a : α) : (gated g s a).map f = gated g s (f a) := by
  unfold gated
  split <;> rfl

theorem setConv_relocate (sl : Slot) (v : ConvSlot) :
    (relocate p ts s).setConv sl v = relocate p ts (s.setConv sl v) := by
  cases sl <;> rfl

theorem afterRead_relocate (sl : Slot) : afterRead sl (relocate p ts s) = relocate p ts (afterRead sl s) := by
  cases sl <;> rfl

theorem afterLoopPoll_relocate (sl : Slot) (s1 : Status) (bound : Word) (found : Poll) :
    afterLoopPoll sl s1 bound (relocate p ts s) found =
      ((afterLoopPoll sl s1 bound s found).1, relocate p ts (afterLoopPoll sl s1 bound s found).2) := by
  cases found with
  | ended st =>
    by_cases hst : st = .ok
    · simp only [afterLoopPoll, if_pos hst]
    · simp only [afterLoopPoll, if_neg hst]
      rfl
  | again left => rfl

theorem selectMode_eq (sl : Slot) (diff : Bool) :
    selectMode sl diff s = gated .adc s (s.setConv sl { s.conv sl with diff := diff }) := by
  rw [selectMode, fieldWrite_adDiff]

theorem selectCode_eq (sl : Slot) (code : Nat) (diff : Bool) :
    selectCode sl code diff s =
      gated .adc s (s.setConv sl ((s.conv sl).start (BitVec.ofNat 5 (resolve s.cfg code diff)))) := by
  rw [selectCode, startConversion_fieldWrite_adCh, BitVec.setWidth_ofNat_of_le (by decide)]

theorem driveStep_eq : driveStep s = gated .pin s { s with pin := s.outLevel } := by
  rw [driveStep, fieldWrite_pin]

theorem loopStep_relocate (q : LoopPos) :
    loopStep q (relocate p ts s) = (loopStep q s).map fun r => (r.1, relocate p ts r.2) := by
  cases q with
  | line0 | duty | compare => rfl
  | select slot c m =>
    simp only [loopStep]
    split
    · rfl
    · rw [selectMode_eq, selectMode_eq, gated_relocate, setConv_relocate, map_gated, map_gated, map_gated]
      rfl
  | code sl c m =>
    simp only [loopStep]
    rw [selectCode_eq, selectCode_eq, gated_relocate, setConv_relocate, map_gated, map_gated, map_gated]
    rfl
  | wait sl s1 | poll sl s1 bound left =>
    simp only [loopStep, pollSlot]
    rw [gated_relocate, map_gated, map_gated, map_gated, afterLoopPoll_relocate]
    rfl
  | read sl s1 =>
    simp only [loopStep, readSlot]
    rw [gated_relocate, afterRead_relocate, map_gated, map_gated, map_gated]
    rfl
  | drive st =>
    simp only [loopStep]
    rw [driveStep_eq, driveStep_eq, gated_relocate, map_gated, map_gated, map_gated]
    rfl

end

/-- The position alone moved. -/
theorem loopStep_at (q : LoopPos) (p : Bg) (s : State) :
    loopStep q { s with bg := p } = (loopStep q s).map fun r => (r.1, { r.2 with bg := p }) := by
  refine (loopStep_relocate p s.turns s q).trans ?_
  cases hline : loopStep q s with
  | error f => rfl
  | ok r =>
    have hturns : r.2.turns = s.turns := by rw [loopStep_frame hline]
    rw [← hturns]
    rfl

theorem exec_loopit_at (p : LoopPos) (s : State) :
    exec .loopit { s with bg := .exec (.loop p) } = finish ((loopStep p s).map loopitAfter) := by
  rw [exec_loopit_of_loop rfl, loopStep_at]
  cases loopStep p s with
  | error f => rfl
  | ok r =>
    obtain ⟨n, u⟩ := r
    cases n <;> rfl

theorem exec_run_at (p : LoopPos) (s : State) :
    exec .run { s with bg := .run p } = finish ((loopStep p s).map runAfter) := by
  rw [exec_run_of_run rfl, loopStep_at]
  cases loopStep p s with
  | error f => rfl
  | ok r =>
    obtain ⟨n, u⟩ := r
    cases n <;> rfl

/-! ### `RUN` beside `LOOPIT` -/

/-- What follows a line differs in the position and the response alone. -/
theorem loopitAfter_runAfter (n : LoopNext) (u : State) :
    { runAfter (n, u) with
      bg := (loopitAfter (n, u)).bg, rspStatus := (loopitAfter (n, u)).rspStatus
      rspData := (loopitAfter (n, u)).rspData, stLast := (loopitAfter (n, u)).stLast } = loopitAfter (n, u) ∧
      (runAfter (n, u)).rspStatus = u.rspStatus ∧ (runAfter (n, u)).rspData = u.rspData ∧
      ((∃ q, (loopitAfter (n, u)).bg = .exec (.loop q) ∧ (runAfter (n, u)).bg = .run q ∧
          (runAfter (n, u)).stLast = u.stLast) ∨
        ((loopitAfter (n, u)).bg = .idle ∧ (runAfter (n, u)).bg = .run .line0 ∧
          (runAfter (n, u)).stLast = (loopitAfter (n, u)).stLast)) := by
  cases n with
  | goto q => exact ⟨rfl, rfl, rfl, .inl ⟨q, rfl, rfl, rfl⟩⟩
  | ended st => exact ⟨rfl, rfl, rfl, .inr ⟨rfl, rfl, rfl⟩⟩

/-- Settles O43: both are the same line from the same registers, so they fault alike; they differ in what follows the
line. -/
theorem runIterationIsLoopit : Obligations.RunIterationIsLoopit := by
  intro p s
  rw [exec_loopit_at, exec_run_at]
  refine ⟨fun f => by rw [finish_fault_iff, finish_fault_iff, map_error_iff, map_error_iff], fun t h => ?_⟩
  obtain ⟨⟨n, u⟩, hline, rfl⟩ := map_ok_iff.mp (finish_next_iff.mp h)
  have hstatus : u.rspStatus = s.rspStatus := by rw [loopStep_frame hline]
  have hdata : u.rspData = s.rspData := by rw [loopStep_frame hline]
  have hlast : u.stLast = s.stLast := by rw [loopStep_frame hline]
  rw [hline, ← hstatus, ← hdata, ← hlast]
  exact ⟨_, rfl, loopitAfter_runAfter n u⟩

/-! ### The first and the last line -/

theorem loopStep_drive_of_up {s : State} (hup : s.gatePin = true) (st : Status) :
    loopStep (.drive st) s = .ok (.ended st, { s with pin := s.outLevel }) := by
  simp only [loopStep, driveStep_of_up hup, map_ok]

/-- Settles O42: the first micro-step writes the position alone, and the last line drives the pin and goes back. -/
theorem runEntersAndRepeats : Obligations.RunEntersAndRepeats := by
  constructor
  · intro s hbg
    simp only [exec, execRun, hbg]
  · intro s st hbg hup
    rw [exec_run_of_run hbg, loopStep_drive_of_up hup]
    rfl

/-- Settles O46: both last lines end in `respond`. -/
theorem longCommandsEndInResponse : Obligations.LongCommandsEndInResponse := by
  constructor
  · intro s st hbg hup
    rw [exec_loopit_of_loop hbg, loopStep_drive_of_up hup]
    rfl
  · intro a s s1 s2 hbg
    rw [exec_init_of_init hbg]
    rfl

/-! ### What the invariant says inside an iteration -/

theorem BlockInv.loop {s : State} {p : LoopPos} (h : BlockInv s) (hbg : s.bg = .exec (.loop p) ∨ s.bg = .run p) :
    LoopInv s p := by
  have hpos := h.bg
  obtain hbg | hbg := hbg <;> rw [BgInv, hbg] at hpos
  · obtain ⟨i, -, -, -, hloop⟩ := hpos.resolve_left nofun
    exact hloop
  · exact hpos.2

/-- Settles O40: the promises of line 5 are what its micro-step leaves in `DUTY` and drives to the pin. -/
theorem failedIterationLeavesPinInactive : Obligations.FailedIterationLeavesPinInactive := by
  intro s t st hinv hst h
  have hpromise : LoopInv s (.drive st) := hinv.loop (h.imp And.left And.left)
  obtain ⟨hduty, hlevel⟩ := hpromise.2 hst
  obtain ⟨hbg, h⟩ | ⟨hbg, h⟩ := h
  · rw [exec_loopit_of_loop hbg, finish_next_iff] at h
    obtain ⟨r, hr, rfl⟩ := map_ok_iff.mp h
    obtain ⟨u, hu, rfl⟩ := map_ok_iff.mp hr
    rw [driveStep_ok hu]
    exact ⟨hduty, hlevel, rfl⟩
  · rw [exec_run_of_run hbg, finish_next_iff] at h
    obtain ⟨r, hr, rfl⟩ := map_ok_iff.mp h
    obtain ⟨u, hu, rfl⟩ := map_ok_iff.mp hr
    rw [driveStep_ok hu]
    exact ⟨hduty, hlevel, rfl⟩

/-- Line 2 reads the finished result of a slot whose flag is 1: a busy slot would have its flag 0. -/
theorem loopStep_read_of_blockInv {s : State} {sl : Slot} {s1 : Status} (hinv : BlockInv s) (hup : s.gateAdc = true)
    (hbg : s.bg = .exec (.loop (.read sl s1)) ∨ s.bg = .run (.read sl s1)) :
    loopStep (.read sl s1) s = .ok (.goto (.duty .ok .ok ((s.conv sl).result.setWidth 32)),
      s.setConv sl { s.conv sl with coco := if s.cfg.cocoClearOnRead = true then false else true }) := by
  obtain ⟨rfl, hflag⟩ := hinv.loop hbg
  have hidle : (s.conv sl).busy = false := by
    by_contra hbusy
    have hclear := (hinv.slot sl (by simpa using hbusy)).1
    rw [hflag] at hclear
    cases hclear
  have hcoco : ((s.conv sl).coco && !s.cfg.cocoClearOnRead) = if s.cfg.cocoClearOnRead = true then false else true := by
    rw [hflag]
    cases s.cfg.cocoClearOnRead <;> rfl
  simp only [loopStep, readSlot_of_up hup, map_ok, resultValue_of_idle hidle, afterRead_of_idle hidle, hcoco]

/-- Settles O41: the line is the same for both operations. -/
theorem iterationReadsFinishedResult : Obligations.IterationReadsFinishedResult := by
  intro s sl s1 hinv hup
  refine ⟨fun hbg => ?_, fun hbg => ?_⟩
  · rw [exec_loopit_of_loop hbg, loopStep_read_of_blockInv hinv hup (.inl hbg)]
    rfl
  · rw [exec_run_of_run hbg, loopStep_read_of_blockInv hinv hup (.inr hbg)]
    rfl

/-! ### Paths of lines -/

/-- `k` lines from `p` in `s`, ending at a position or at the end of the iteration. -/
inductive LoopPath : Nat → LoopPos → State → LoopNext → State → Prop
  | nil {p : LoopPos} {s : State} : LoopPath 0 p s (.goto p) s
  | cons {k : Nat} {p q : LoopPos} {n : LoopNext} {s u t : State} (h : loopStep p s = .ok (.goto q, u))
      (rest : LoopPath k q u n t) : LoopPath (k + 1) p s n t
  | last {p : LoopPos} {st : Status} {s t : State} (h : loopStep p s = .ok (.ended st, t)) :
      LoopPath 1 p s (.ended st) t

theorem LoopPath.append {m k : Nat} {p q : LoopPos} {n : LoopNext} {s u t : State} (h : LoopPath m p s (.goto q) u)
    (h' : LoopPath k q u n t) : LoopPath (m + k) p s n t := by
  generalize hn : LoopNext.goto q = next at h
  induction h with
  | nil => cases hn; rwa [Nat.zero_add]
  | cons hline _ ih => rw [Nat.succ_add]; exact .cons hline (ih h' hn)
  | last => cases hn

/-- `LOOPIT` performs a path, one line a micro-step. -/
theorem LoopPath.execTimes {k : Nat} {p : LoopPos} {n : LoopNext} {s t : State} (h : LoopPath k p s n t) :
    execTimes .loopit k { s with bg := .exec (.loop p) } = .next (loopitAfter (n, t)) := by
  induction h with
  | nil => rfl
  | @cons k p q n s u t hline hrest ih =>
    have hnext : exec .loopit { s with bg := .exec (.loop p) } = .next { u with bg := .exec (.loop q) } := by
      rw [exec_loopit_at, hline]
      rfl
    rw [Machine.execTimes, hnext]
    exact ih
  | last hline =>
    rw [execTimes_one, exec_loopit_at, hline]
    rfl

/-- A turn of the background context with `LOOPIT` in progress. -/
theorem step_loopit {s : State} {k : Micro} {ts : List Turn} (hisr : s.isr = .none)
    (hdecode : decode (latched s) = .ok .loopit) (hbg : s.bg = .exec k) (hturns : s.turns = .background :: ts) :
    step s = exec .loopit { s with turns := ts } := by
  have hnext : nextTurn s = .background := by rw [nextTurn, hturns]
  rw [step_of_exec hisr hnext hbg hdecode, afterTurn, hturns, List.tail_cons]

theorem step_loopit_relocate {s : State} (hisr : s.isr = .none) (hdecode : decode (latched s) = .ok .loopit)
    (p : LoopPos) (ts : List Turn) :
    step (relocate (.exec (.loop p)) (.background :: ts) s) =
      finish ((loopStep p s).map fun r => { loopitAfter r with turns := ts }) := by
  have hstep : step (relocate (.exec (.loop p)) (.background :: ts) s) =
      exec .loopit (relocate (.exec (.loop p)) ts s) :=
    step_loopit (s := relocate (.exec (.loop p)) (.background :: ts) s) hisr hdecode rfl rfl
  rw [hstep, exec_loopit_of_loop rfl, loopStep_relocate]
  cases loopStep p s with
  | error f => rfl
  | ok r =>
    obtain ⟨n, u⟩ := r
    cases n <;> rfl

/-- So do as many turns of the background context. -/
theorem LoopPath.run {k : Nat} {p : LoopPos} {n : LoopNext} {s t : State} (h : LoopPath k p s n t)
    (hisr : s.isr = .none) (hdecode : decode (latched s) = .ok .loopit) (rest : List Turn) :
    core.run k (relocate (.exec (.loop p)) (List.replicate k .background ++ rest) s) =
      .next { loopitAfter (n, t) with turns := rest } := by
  induction h with
  | nil => rfl
  | @cons k p q n s u t hline hrest ih =>
    have hkept := kept_loopStep hline
    have hnext : step (relocate (.exec (.loop p)) (.background :: (List.replicate k .background ++ rest)) s) =
        .next (relocate (.exec (.loop q)) (List.replicate k .background ++ rest) u) := by
      rw [step_loopit_relocate hisr hdecode, hline]
      rfl
    rw [List.replicate_succ, List.cons_append, run_succ hnext]
    exact ih (hkept.isr.trans hisr) (by rw [hkept.latched]; exact hdecode)
  | @last p st s t hline =>
    have hnext : step (relocate (.exec (.loop p)) (.background :: rest) s) =
        .next { loopitAfter (.ended st, t) with turns := rest } := by
      rw [step_loopit_relocate hisr hdecode, hline]
      rfl
    exact run_succ hnext

/-- The first micro-step of `LOOPIT` is line 0 (43_control_loop.md R121). -/
theorem exec_loopit_first {s : State} (hbg : s.bg = .exec .first) :
    exec .loopit s = exec .loopit { s with bg := .exec (.loop .line0) } := by
  simp only [exec, execLoopit, hbg]
  rfl

theorem execTimes_loopit_first {s : State} (hbg : s.bg = .exec .first) (k : Nat) :
    execTimes .loopit (k + 1) s = execTimes .loopit (k + 1) { s with bg := .exec (.loop .line0) } := by
  simp only [execTimes]
  rw [exec_loopit_first hbg]

theorem run_loopit_first {s : State} {ts : List Turn} (hisr : s.isr = .none)
    (hdecode : decode (latched s) = .ok .loopit) (hbg : s.bg = .exec .first) (hturns : s.turns = .background :: ts)
    (k : Nat) : core.run (k + 1) s = core.run (k + 1) { s with bg := .exec (.loop .line0) } := by
  have hfirst : step s = step { s with bg := .exec (.loop .line0) } := by
    have hline0 := step_loopit (s := { s with bg := .exec (.loop .line0) }) hisr hdecode rfl hturns
    rw [step_loopit hisr hdecode hbg hturns, hline0]
    exact exec_loopit_first (s := { s with turns := ts }) hbg
  simp only [Host.Core.run, core, hfirst]

/-! ### The three parts of an iteration -/

/-- The registers after line 1's select (43_control_loop.md R121): mode, code, and the status noted. -/
def selected (sl : Slot) (s : State) : State :=
  note (selectStatus s.cfg s.lpCode.toNat s.lpDiff)
    (s.setConv sl ({ s.conv sl with diff := s.lpDiff }.start
      (BitVec.ofNat 5 (resolve s.cfg s.lpCode.toNat s.lpDiff))))

theorem path_select {s : State} {sl : Slot} (hup : s.gateAdc = true) (hsl : slotOf s.lpSlot.toNat = some sl) :
    LoopPath 3 .line0 s (.goto (.wait sl (selectStatus s.cfg s.lpCode.toNat s.lpDiff))) (selected sl s) := by
  have hmode : loopStep (.select s.lpSlot s.lpCode s.lpDiff) s =
      .ok (.goto (.code sl s.lpCode s.lpDiff), s.setConv sl { s.conv sl with diff := s.lpDiff }) := by
    simp only [loopStep, hsl, selectMode_of_up hup, map_ok]
  have hcode : loopStep (.code sl s.lpCode s.lpDiff) (s.setConv sl { s.conv sl with diff := s.lpDiff }) =
      .ok (.goto (.wait sl (selectStatus s.cfg s.lpCode.toNat s.lpDiff)), selected sl s) := by
    simp only [loopStep, selectCode_of_up (s := s.setConv sl { s.conv sl with diff := s.lpDiff }) (by simpa using hup),
      map_ok, selected, conv_setConv, setConv_setConv, if_true, State.setConv_cfg]
  exact .cons rfl (.cons hmode (.cons hcode .nil))

/-- The position before the poll number `n + 1` of an iteration's wait. -/
def pollPos (sl : Slot) (s1 : Status) (tmo : Word) (n : Nat) : LoopPos :=
  if n = 0 then .wait sl s1 else .poll sl s1 tmo (pollsLeft tmo n)

theorem loopStep_pollPos {s : State} (hup : s.gateAdc = true) (sl : Slot) (s1 : Status) (n : Nat) :
    loopStep (pollPos sl s1 s.adTmo n) s =
      .ok (afterLoopPoll sl s1 s.adTmo s (pollFlag (s.conv sl).coco s.adTmo (pollsLeft s.adTmo n))) := by
  cases n with
  | zero => simp [pollPos, loopStep, pollSlot_of_up hup]
  | succ n => simp [pollPos, loopStep, pollSlot_of_up hup]

/-- While the flag is 0 and the bound is not reached, the polls change nothing. -/
theorem path_polls {s : State} {sl : Slot} (hup : s.gateAdc = true) (hflag : (s.conv sl).coco = false) (s1 : Status)
    (n : Nat) (hn : s.adTmo = 0#32 ∨ n < s.adTmo.toNat) :
    LoopPath n (.wait sl s1) s (.goto (pollPos sl s1 s.adTmo n)) s := by
  induction n with
  | zero => exact .nil
  | succ n ih =>
    have hline := loopStep_pollPos hup sl s1 n
    rw [hflag, pollFlag_pollsLeft hn] at hline
    exact (ih (hn.imp id (by omega))).append (.cons hline .nil)

/-- The end of an iteration without a good sample: duty 0, and the pin inactive whatever `TICK` is. -/
theorem path_off {s : State} (hup : s.gatePin = true) (s1 : Status) {s2 : Status} (hs2 : s2 ≠ .ok) (v : Word) :
    LoopPath 3 (.duty s1 s2 v) s (.ended s2)
      { s with duty := 0#7, outLevel := !s.cfg.activeLevel, pin := !s.cfg.activeLevel } := by
  have hduty : loopStep (.duty s1 s2 v) s = .ok (.goto (.compare s2), { s with duty := 0#7 }) := by
    simp only [loopStep, loopStatus, writeDuty, if_neg hs2]
  exact .cons hduty (.cons rfl (.last (loopStep_drive_of_up (s := compareStep { s with duty := 0#7 }) hup s2)))

/-- The end of an iteration that finds the flag 1: the sample's duty, its level at `TICK`, the pin. -/
theorem path_render {s : State} {sl : Slot} (hup : s.gateAdc = true) (hpin : s.gatePin = true)
    (hflag : (s.conv sl).coco = true) (hidle : (s.conv sl).busy = false) (s1 : Status) (n : Nat) :
    LoopPath 5 (pollPos sl s1 s.adTmo n) s (.ended s1)
      { s.setConv sl { s.conv sl with coco := !s.cfg.cocoClearOnRead } with
        duty := BitVec.ofNat 7 (dutyOf s.cfg (s.conv sl).result.toNat)
        outLevel := levelOf s.cfg s.tick.toNat (dutyOf s.cfg (s.conv sl).result.toNat)
        pin := levelOf s.cfg s.tick.toNat (dutyOf s.cfg (s.conv sl).result.toNat) } := by
  have hpoll := loopStep_pollPos hup sl s1 n
  rw [hflag, pollFlag_true] at hpoll
  have hread : loopStep (.read sl s1) s = .ok (.goto (.duty s1 .ok ((s.conv sl).result.setWidth 32)),
      s.setConv sl { s.conv sl with coco := !s.cfg.cocoClearOnRead }) := by
    simp only [loopStep, readSlot_of_up hup, map_ok, resultValue_of_idle hidle, afterRead_of_idle hidle, hflag,
      Bool.true_and]
  have hsample : ((s.conv sl).result.setWidth 32).toNat = (s.conv sl).result.toNat := by
    rw [BitVec.toNat_setWidth, Nat.mod_eq_of_lt ((s.conv sl).result.isLt.trans (by decide))]
  have hduty : (BitVec.ofNat 7 (dutyOf s.cfg (s.conv sl).result.toNat)).toNat =
      dutyOf s.cfg (s.conv sl).result.toNat := by
    have hle := dutyOf_le s.cfg (s.conv sl).result.toNat
    rw [BitVec.toNat_ofNat, Nat.mod_eq_of_lt (by omega)]
  have hdrive := loopStep_drive_of_up (s := compareStep (writeDuty .ok ((s.conv sl).result.setWidth 32)
    (s.setConv sl { s.conv sl with coco := !s.cfg.cocoClearOnRead }))) (by simpa [compareStep, writeDuty] using hpin) s1
  simp only [compareStep, writeDuty, if_true, State.setConv_cfg, State.setConv_tick, hsample, hduty] at hdrive
  refine .cons hpoll (.cons hread (.cons rfl (.cons rfl (.last ?_))))
  simpa only [compareStep, writeDuty, loopStatus, if_true, State.setConv_cfg, State.setConv_tick, hsample, hduty]
    using hdrive

end Sys2Proof.Machine
end

section
/-! PROOFS. Whole iterations of `LOOPIT` (43_control_loop.md R121 to R124): a good one, a timeout, an invalid slot. Each
is the first micro-step and a path of lines. -/

namespace Sys2Proof.Machine

open Sys2Proof

/-! ### An iteration without a sample -/

/-- Settles O39: the select notes the status and turns to line 3, and the path ends with the duty off. -/
theorem loopitInvalidSlotForcesOff : Obligations.LoopitInvalidSlotForcesOff := by
  intro s hbg hpin hslot
  have hselect : loopStep (.select s.lpSlot s.lpCode s.lpDiff) s =
      .ok (.goto (.duty .invalidChannelIndex .invalidChannelIndex 0#32), note .invalidChannelIndex s) := by
    simp only [loopStep, hslot]
  have hoff := path_off (s := note .invalidChannelIndex s) hpin .invalidChannelIndex (s2 := .invalidChannelIndex) nofun 0#32
  have hpath := LoopPath.cons (p := .line0) rfl (.cons hselect hoff)
  rw [execTimes_loopit_first hbg, hpath.execTimes]
  simp [loopitAfter, respond, note, stickyBit, statusCode, BitVec.or_assoc]

/-- The path of a wait that reaches its bound (43_control_loop.md R123). -/
theorem path_timeout {s : State} {sl : Slot} (hup : s.gateAdc = true) (hpin : s.gatePin = true)
    (hflag : (s.conv sl).coco = false) (s1 : Status) {n : Nat} (hn : n + 1 = s.adTmo.toNat) :
    LoopPath (n + 4) (.wait sl s1) s (.ended .conversionTimeout)
      { note .conversionTimeout s with duty := 0#7, outLevel := !s.cfg.activeLevel, pin := !s.cfg.activeLevel } := by
  have hlast := loopStep_pollPos hup sl s1 n
  rw [hflag, pollFlag_pollsLeft_last hn] at hlast
  have hoff := path_off (s := note .conversionTimeout s) hpin s1 (s2 := .conversionTimeout) nofun 0#32
  exact (path_polls hup hflag s1 n (.inr (by omega))).append (.cons hlast hoff)

theorem conv_selected (sl : Slot) (s : State) :
    (selected sl s).conv sl = { s.conv sl with diff := s.lpDiff }.start
      (BitVec.ofNat 5 (resolve s.cfg s.lpCode.toNat s.lpDiff)) := by
  rw [selected, conv_note, conv_setConv, if_pos rfl]

/-- What the select notes (60_exceptions.md R133): nothing for a code that is kept. -/
theorem or_stickyBit_selectStatus (e : BitVec 7) (cfg : Config) (code : Nat) (diff : Bool) :
    e ||| stickyBit (selectStatus cfg code diff) =
      if resolve cfg code diff = code then e else e ||| 0b0000100#7 := by
  by_cases h : resolve cfg code diff = code
  · simp [selectStatus, h, stickyBit]
  · simp [selectStatus, h, stickyBit, statusCode]

/-- Settles O38: the select clears the flag, so `AD_TMO` polls find 0, and the path ends with the duty off. -/
theorem loopitTimeoutForcesOff : Obligations.LoopitTimeoutForcesOff := by
  intro s sl hbg hup hpin hsl hbound
  obtain ⟨n, hn⟩ := Nat.exists_eq_succ_of_ne_zero fun h => hbound (BitVec.eq_of_toNat_eq h)
  have hselected : (selected sl s).gateAdc = true ∧ (selected sl s).gatePin = true ∧
      (selected sl s).adTmo = s.adTmo ∧ (selected sl s).cfg = s.cfg := by simp [selected, hup, hpin]
  obtain ⟨hup', hpin', htmo, hcfg⟩ := hselected
  have htimeout := path_timeout (s := selected sl s) (sl := sl) hup' hpin' (by rw [conv_selected]; rfl)
    (selectStatus s.cfg s.lpCode.toNat s.lpDiff) (n := n) (by rw [htmo, hn])
  have hpath := (path_select hup hsl).append htimeout
  rw [show s.adTmo.toNat + 6 = (n + 6) + 1 by omega, execTimes_loopit_first hbg, show n + 6 + 1 = 3 + (n + 4) by omega,
    hpath.execTimes, hcfg]
  have hsticky : stickyBit .conversionTimeout = 0b0010000#7 := rfl
  simp only [loopitAfter, respond, note, selected, start_resolve, or_stickyBit_selectStatus, State.setConv_stErr,
    hsticky, BitVec.or_assoc, BitVec.or_self]
  rfl

/-! ### A good iteration -/

/-- The completion that a good iteration waits for (42_conversion_sequencer.md R110). -/
theorem convComplete_selected {s : State} {sl : Slot} {x : BitVec 16} (p : Bg) (ts : List Turn)
    (hup : s.gateAdc = true) (hcode : resolve s.cfg s.lpCode.toNat s.lpDiff ≠ 31)
    (hx : s.lpDiff = true ∨ x.toNat < 2 ^ resBits s.cfg s.adMode) :
    convComplete sl x (relocate p ts (selected sl s)) =
      relocate p ts ((selected sl s).setConv sl
        { (selected sl s).conv sl with result := x, coco := true, busy := false }) := by
  have hconv : (relocate p ts (selected sl s)).conv sl = (selected sl s).conv sl := rfl
  have hbusy : ((selected sl s).conv sl).busy = true := by
    rw [conv_selected, start_resolve]
    exact decide_eq_true hcode
  have hdiff : ((selected sl s).conv sl).diff = s.lpDiff := by rw [conv_selected]; rfl
  have hregs : (selected sl s).gateAdc = true ∧ (selected sl s).cfg = s.cfg ∧ (selected sl s).adMode = s.adMode := by
    simp [selected, hup]
  obtain ⟨hup', hcfg, hmode⟩ := hregs
  rw [convComplete_of_enabled (s := relocate p ts (selected sl s)) hup' (by rw [hconv]; exact hbusy), hconv,
    setConv_relocate]
  rw [sampleAdmitted_iff, hconv, hdiff]
  show _ ∨ _ ∨ _ ∨ _ ∨ x.toNat < 2 ^ resBits (selected sl s).cfg (selected sl s).adMode
  rw [hcfg, hmode]
  exact hx.imp id fun h => .inr (.inr (.inr h))

/-- The registers when the awaited conversion has completed. -/
def converted (sl : Slot) (x : BitVec 16) (s : State) : State :=
  (selected sl s).setConv sl { (selected sl s).conv sl with result := x, coco := true, busy := false }

/-- The path of line 1 up to the poll number `n + 1`. -/
theorem path_to_poll {s : State} {sl : Slot} (hup : s.gateAdc = true) (hsl : slotOf s.lpSlot.toNat = some sl) {n : Nat}
    (hn : s.adTmo = 0#32 ∨ n < s.adTmo.toNat) :
    LoopPath (3 + n) .line0 s (.goto (pollPos sl (selectStatus s.cfg s.lpCode.toNat s.lpDiff) s.adTmo n))
      (selected sl s) := by
  have htmo : (selected sl s).adTmo = s.adTmo := by simp [selected]
  have hpolls := path_polls (s := selected sl s) (sl := sl) (by simpa [selected] using hup) (by rw [conv_selected]; rfl)
    (selectStatus s.cfg s.lpCode.toNat s.lpDiff) n (by rwa [htmo])
  rw [htmo] at hpolls
  exact (path_select hup hsl).append hpolls

/-- What a good iteration leaves (43_control_loop.md R121), from a code that is kept. -/
theorem loopitAfter_converted {s : State} {sl : Slot} {x : BitVec 16}
    (hkept : resolve s.cfg s.lpCode.toNat s.lpDiff = s.lpCode.toNat) :
    loopitAfter (.ended .ok, { (converted sl x s).setConv sl
          { (converted sl x s).conv sl with coco := !(converted sl x s).cfg.cocoClearOnRead } with
        duty := BitVec.ofNat 7 (dutyOf (converted sl x s).cfg ((converted sl x s).conv sl).result.toNat)
        outLevel := levelOf (converted sl x s).cfg (converted sl x s).tick.toNat
          (dutyOf (converted sl x s).cfg ((converted sl x s).conv sl).result.toNat)
        pin := levelOf (converted sl x s).cfg (converted sl x s).tick.toNat
          (dutyOf (converted sl x s).cfg ((converted sl x s).conv sl).result.toNat) }) =
      { s.setConv sl { s.conv sl with
          ch := s.lpCode.setWidth 5, diff := s.lpDiff, result := x, busy := false
          coco := !s.cfg.cocoClearOnRead } with
        duty := BitVec.ofNat 7 (dutyOf s.cfg x.toNat)
        outLevel := levelOf s.cfg s.tick.toNat (dutyOf s.cfg x.toNat)
        pin := levelOf s.cfg s.tick.toNat (dutyOf s.cfg x.toNat)
        rspStatus := 0#4, rspData := BitVec.ofNat 32 (dutyOf s.cfg x.toNat), stLast := 0#4, bg := .idle } := by
  have hok : selectStatus s.cfg s.lpCode.toNat s.lpDiff = .ok := if_pos hkept
  have hdata : (BitVec.ofNat 7 (dutyOf s.cfg x.toNat)).setWidth 32 = BitVec.ofNat 32 (dutyOf s.cfg x.toNat) := by
    have hle := dutyOf_le s.cfg x.toNat
    apply BitVec.eq_of_toNat_eq
    rw [BitVec.toNat_setWidth, BitVec.toNat_ofNat, BitVec.toNat_ofNat]
    omega
  have hcode : BitVec.ofNat 5 (resolve s.cfg s.lpCode.toNat s.lpDiff) = s.lpCode.setWidth 5 := by
    rw [hkept, BitVec.ofNat_toNat]
  simp only [loopitAfter, respond_ok, converted, selected, hok, note_ok, hcode, hdata, conv_setConv, if_true,
    setConv_setConv, State.setConv_cfg, State.setConv_tick, ConvSlot.start]

/-- The step that completes the conversion, at any position of the wait. -/
theorem step_convComplete_selected {s : State} {sl : Slot} {x : BitVec 16} (p : Bg) (ts : List Turn)
    (hup : s.gateAdc = true) (hcode : resolve s.cfg s.lpCode.toNat s.lpDiff ≠ 31)
    (hx : s.lpDiff = true ∨ x.toNat < 2 ^ resBits s.cfg s.adMode) :
    step (relocate p (.convComplete sl x :: ts) (selected sl s)) = .next (relocate p ts (converted sl x s)) := by
  rw [step_of_turns rfl]
  exact congrArg Host.Outcome.next (convComplete_selected p ts hup hcode hx)

/-- Settles O37: the path to the poll that finds the flag, the completion before it, and the path that renders the
sample. -/
theorem loopitRendersSample : Obligations.LoopitRendersSample := by
  intro s sl x n rest hisr hbg hdecode hup hpin hsl hkept hcode hx hn hturns
  have hok : selectStatus s.cfg s.lpCode.toNat s.lpDiff = .ok := if_pos hkept
  have henabled : resolve s.cfg s.lpCode.toNat s.lpDiff ≠ 31 := by
    rw [hkept]
    exact fun h => hcode (BitVec.eq_of_toNat_eq h)
  have hregs : (converted sl x s).gateAdc = true ∧ (converted sl x s).gatePin = true ∧
      (converted sl x s).adTmo = s.adTmo ∧ (converted sl x s).isr = .none ∧
      latched (converted sl x s) = latched s ∧ ((converted sl x s).conv sl).coco = true ∧
      ((converted sl x s).conv sl).busy = false := by
    simp [converted, selected, latched, hup, hpin, hisr]
  obtain ⟨hup', hpin', htmo, hisr', hlatched, hflag, hidle⟩ := hregs
  have hwait := path_to_poll hup hsl hn
  have hrender := path_render hup' hpin' hflag hidle .ok n
  rw [hok] at hwait
  rw [htmo] at hrender
  obtain ⟨ts, hhead⟩ : ∃ ts, s.turns = .background :: ts :=
    ⟨_, by rw [hturns, show 3 + n = 2 + n + 1 by omega, List.replicate_succ, List.cons_append]⟩
  calc core.run (9 + n) s
    _ = core.run (3 + n + (5 + 1)) (relocate (.exec (.loop .line0)) s.turns s) := by
      rw [show 9 + n = 8 + n + 1 by omega, run_loopit_first hisr hdecode hbg hhead,
        show 8 + n + 1 = 3 + n + (5 + 1) by omega]
      rfl
    _ = core.run (5 + 1) (relocate (.exec (.loop (pollPos sl .ok s.adTmo n)))
          (.convComplete sl x :: (List.replicate 5 .background ++ rest)) (selected sl s)) := by
      rw [hturns, run_add _ _ _ _ (hwait.run hisr hdecode _)]
      rfl
    _ = core.run 5 (relocate (.exec (.loop (pollPos sl .ok s.adTmo n))) (List.replicate 5 .background ++ rest)
          (converted sl x s)) :=
      run_succ (step_convComplete_selected _ _ hup henabled hx)
    _ = _ := by
      rw [hrender.run hisr' (by rw [hlatched]; exact hdecode) rest, loopitAfter_converted hkept]

end Sys2Proof.Machine
end

section
/-! PROOFS. The whole of `INIT` (43_control_loop.md R127, R129): the clock fields, the slot, the timer channel, the
callback, one after the other whatever a stage reports. -/

namespace Sys2Proof.Machine

open Sys2Proof

/-! ### The lines of `INIT` -/

section
variable {a : InitArgs} {s : State}

theorem exec_init_first (hbg : s.bg = .exec .first) (hpresent : allPresent a = true) :
    exec (.init a) s = .next (initGoto .line1 s) := by
  simp [exec, execInit, hbg, hpresent]

theorem exec_init_line1 (hup : s.gateAdc = true) :
    exec (.init a) (initGoto .line1 s) = .next (initGoto .line2 { s with adIclk := a.kIclk }) := by
  rw [exec_init_of_init rfl, initStep, gatedAdc_of_up (s := initGoto .line1 s) hup, fieldWrite_adIclk]
  rfl

theorem exec_init_line2 (hup : s.gateAdc = true) :
    exec (.init a) (initGoto .line2 s) = .next (initGoto .line3 { s with adDiv := a.kDiv }) := by
  rw [exec_init_of_init rfl, initStep, gatedAdc_of_up (s := initGoto .line2 s) hup, fieldWrite_adDiv]
  rfl

theorem exec_init_line3 (hup : s.gateAdc = true) :
    exec (.init a) (initGoto .line3 s) = .next (initGoto .line4 { s with adMode := a.kMode }) := by
  rw [exec_init_of_init rfl, initStep, gatedAdc_of_up (s := initGoto .line3 s) hup, fieldWrite_adMode]
  rfl

theorem exec_init_line4 (hup : s.gateAdc = true) :
    exec (.init a) (initGoto .line4 s) = .next (initGoto .line5 { s with adSmplt := a.kSmplt }) := by
  rw [exec_init_of_init rfl, initStep, gatedAdc_of_up (s := initGoto .line4 s) hup, fieldWrite_adSmplt]
  rfl

theorem exec_init_line6 : exec (.init a) (initGoto .line6 s) = .next (initGoto .select (writeLoopConfig a s)) := rfl

theorem exec_init_callback (s1 s2 : Status) :
    exec (.init a) (initGoto (.callback s1 s2) s) =
      .next (respond (initStatus s1 s2) 0#32 { s with cb := s.cfg.cbTick }) := rfl

theorem setConv_initGoto (p : InitPos) (sl : Slot) (v : ConvSlot) :
    (initGoto p s).setConv sl v = initGoto p (s.setConv sl v) := by
  cases sl <;> rfl

theorem setTimer_initGoto (p : InitPos) (c : Chan) (v : TimerChannel) :
    (initGoto p s).setTimer c v = initGoto p (s.setTimer c v) := by
  cases c <;> rfl

section
variable (hslot : slotOf a.sSlot = none)
include hslot

theorem exec_init_line5_invalid : exec (.init a) (initGoto .line5 s) = .next (initGoto .line6 s) := by
  rw [exec_init_of_init rfl]
  simp only [initStep, hslot]
  rfl

theorem exec_init_select_invalid :
    exec (.init a) (initGoto .select s) =
      .next (initGoto (.load .invalidChannelIndex) (note .invalidChannelIndex s)) := by
  rw [exec_init_of_init rfl]
  simp only [initStep, hslot]
  rfl

end

section
variable {sl : Slot} (hup : s.gateAdc = true)
include hup

theorem exec_init_line5_valid (hslot : slotOf a.sSlot = some sl) :
    exec (.init a) (initGoto .line5 s) = .next (initGoto .line6 (s.setConv sl { s.conv sl with ien := a.sIen })) := by
  rw [exec_init_of_init rfl]
  simp only [initStep, hslot]
  rw [gatedAdc_of_up (s := initGoto .line5 s) hup, fieldWrite_adIen, setConv_initGoto]
  rfl

theorem exec_init_select_valid (hslot : slotOf a.sSlot = some sl) :
    exec (.init a) (initGoto .select s) =
      .next (initGoto (.code sl) (s.setConv sl { s.conv sl with diff := a.sDiff })) := by
  rw [exec_init_of_init rfl]
  simp only [initStep, hslot]
  rw [selectMode_of_up (s := initGoto .select s) hup, setConv_initGoto]
  rfl

theorem exec_init_code :
    exec (.init a) (initGoto (.code sl) s) = .next (initGoto (.load (selectStatus s.cfg a.sCode a.sDiff))
      (note (selectStatus s.cfg a.sCode a.sDiff)
        (s.setConv sl ((s.conv sl).start (BitVec.ofNat 5 (resolve s.cfg a.sCode a.sDiff)))))) := by
  rw [exec_init_of_init rfl]
  simp only [initStep]
  rw [selectCode_of_up (s := initGoto (.code sl) s) hup, setConv_initGoto]
  rfl

end

section
variable (hindex : chanOf a.tIndex = none)
include hindex

theorem exec_init_load_invalid (s1 : Status) :
    exec (.init a) (initGoto (.load s1) s) =
      .next (initGoto (.runState s1 .invalidChannelIndex) (note .invalidChannelIndex s)) := by
  rw [exec_init_of_init rfl]
  simp only [initStep, hindex]
  rfl

theorem exec_init_runState_invalid (s1 s2 : Status) :
    exec (.init a) (initGoto (.runState s1 s2) s) = .next (initGoto (.callback s1 s2) s) := by
  rw [exec_init_of_init rfl]
  simp only [initStep, hindex]
  rfl

end

section
variable {c : Chan} (hup : s.gateTmr = true) (s1 : Status)
include hup

theorem exec_init_load_valid (hindex : chanOf a.tIndex = some c) :
    exec (.init a) (initGoto (.load s1) s) =
      .next (initGoto (.chain c s1) (s.setTimer c { s.timer c with load := a.tLoad })) := by
  rw [exec_init_of_init rfl]
  simp only [initStep, hindex]
  rw [writeLoad_of_up (s := initGoto (.load s1) s) hup, setTimer_initGoto]
  rfl

theorem exec_init_chain :
    exec (.init a) (initGoto (.chain c s1) s) =
      .next (initGoto (.arm c s1) (s.setTimer c { s.timer c with chn := a.tChained })) := by
  rw [exec_init_of_init rfl]
  simp only [initStep]
  rw [writeChain_of_up (s := initGoto (.chain c s1) s) hup, setTimer_initGoto]
  rfl

theorem exec_init_arm :
    exec (.init a) (initGoto (.arm c s1) s) =
      .next (initGoto (.runState s1 .ok) (s.setTimer c { s.timer c with ie := a.tIe })) := by
  rw [exec_init_of_init rfl]
  simp only [initStep]
  rw [writeArm_of_up (s := initGoto (.arm c s1) s) hup, setTimer_initGoto]
  rfl

theorem exec_init_runState_valid (hindex : chanOf a.tIndex = some c) (s2 : Status) :
    exec (.init a) (initGoto (.runState s1 s2) s) =
      .next (initGoto (.callback s1 s2) (s.setTimer c { s.timer c with en := a.tEnabled })) := by
  rw [exec_init_of_init rfl]
  simp only [initStep, hindex]
  rw [writeRunState_of_up (s := initGoto (.runState s1 s2) s) hup, setTimer_initGoto]
  rfl

end

end

/-! ### The stages -/

theorem execTimes_succ {i : Instr} {s t : State} (h : exec i s = .next t) (n : Nat) :
    execTimes i (n + 1) s = execTimes i n t := by
  simp only [execTimes, h]

/-- The statuses of the two reporting stages (43_control_loop.md R127). -/
def slotStatus (a : InitArgs) (cfg : Config) : Status :=
  if slotOf a.sSlot = none then .invalidChannelIndex
  else if resolve cfg a.sCode a.sDiff = a.sCode then .ok else .invalidInputChannelCode

def timerStatus (a : InitArgs) : Status := if chanOf a.tIndex = none then .invalidChannelIndex else .ok

/-- Lines 1 to 4: the fields of the converter's clock record. -/
def initClocks (a : InitArgs) (s : State) : State :=
  { s with adIclk := a.kIclk, adDiv := a.kDiv, adMode := a.kMode, adSmplt := a.kSmplt }

/-- Lines 5 and 7: the slot, if the index names one. -/
def initSlot (a : InitArgs) (s : State) : State :=
  match slotOf a.sSlot with
  | none => s
  | some sl => s.setConv sl ({ s.conv sl with ien := a.sIen, diff := a.sDiff }.start
      (BitVec.ofNat 5 (resolve s.cfg a.sCode a.sDiff)))

/-- Lines 8 and 9: the timer channel, if the index names one. -/
def initTimer (a : InitArgs) (s : State) : State :=
  match chanOf a.tIndex with
  | none => s
  | some c => s.setTimer c { s.timer c with load := a.tLoad, en := a.tEnabled, ie := a.tIe, chn := a.tChained }

section
variable {a : InitArgs} {s : State}

theorem execTimes_init_clocks (hbg : s.bg = .exec .first) (hpresent : allPresent a = true) (hup : s.gateAdc = true) :
    execTimes (.init a) 5 s = .next (initGoto .line5 (initClocks a s)) := by
  rw [execTimes_succ (exec_init_first hbg hpresent), execTimes_succ (exec_init_line1 hup),
    execTimes_succ (exec_init_line2 (by exact hup)), execTimes_succ (exec_init_line3 (by exact hup)),
    execTimes_succ (exec_init_line4 (by exact hup))]
  rfl

theorem writeLoopConfig_setConv (sl : Slot) (v : ConvSlot) :
    writeLoopConfig a (s.setConv sl v) = (writeLoopConfig a s).setConv sl v := by
  cases sl <;> rfl

theorem execTimes_init_slot (hup : s.gateAdc = true) :
    execTimes (.init a) (3 + if slotOf a.sSlot = none then 0 else 1) (initGoto .line5 s) =
      .next (initGoto (.load (slotStatus a s.cfg))
        (note (slotStatus a s.cfg) (initSlot a (writeLoopConfig a s)))) := by
  cases hslot : slotOf a.sSlot with
  | none =>
    simp only [slotStatus, initSlot, hslot, if_true]
    rw [execTimes_succ (exec_init_line5_invalid hslot), execTimes_succ exec_init_line6,
      execTimes_succ (exec_init_select_invalid hslot)]
    rfl
  | some sl =>
    simp only [slotStatus, initSlot, hslot, if_false, reduceCtorEq]
    have hup' : ∀ v, (writeLoopConfig a (s.setConv sl v)).gateAdc = true := fun v => by
      rw [writeLoopConfig_setConv, State.setConv_gateAdc]
      exact hup
    rw [execTimes_succ (exec_init_line5_valid hup hslot), execTimes_succ exec_init_line6,
      execTimes_succ (exec_init_select_valid (hup' _) hslot), execTimes_succ (exec_init_code (by simpa using hup' _))]
    simp only [writeLoopConfig_setConv, conv_setConv, setConv_setConv, if_true, State.setConv_cfg]
    rfl

theorem execTimes_init_timer (hup : chanOf a.tIndex ≠ none → s.gateTmr = true) (s1 : Status) :
    execTimes (.init a) (2 + if chanOf a.tIndex = none then 0 else 2) (initGoto (.load s1) s) =
      .next (initGoto (.callback s1 (timerStatus a)) (note (timerStatus a) (initTimer a s))) := by
  cases hindex : chanOf a.tIndex with
  | none =>
    simp only [timerStatus, initTimer, hindex, if_true]
    rw [execTimes_succ (exec_init_load_invalid hindex s1), execTimes_succ (exec_init_runState_invalid hindex _ _)]
    rfl
  | some c =>
    have hup' : s.gateTmr = true := hup (by rw [hindex]; nofun)
    simp only [timerStatus, initTimer, hindex, if_false, reduceCtorEq, note_ok]
    rw [execTimes_succ (exec_init_load_valid hup' s1 hindex), execTimes_succ (exec_init_chain (by simpa using hup') s1),
      execTimes_succ (exec_init_arm (by simpa using hup') s1),
      execTimes_succ (exec_init_runState_valid (by simpa using hup') s1 hindex .ok)]
    simp only [timer_setTimer, setTimer_setTimer, if_true]
    rfl

/-- What the stages before the callback leave. -/
def initStages (a : InitArgs) (s : State) : State :=
  note (timerStatus a) (initTimer a (note (slotStatus a s.cfg) (initSlot a (writeLoopConfig a (initClocks a s)))))

theorem initSlot_frame (a : InitArgs) (s : State) :
    ∃ vA vB, initSlot a s = { s with adA := vA, adB := vB } := by
  unfold initSlot
  split
  · exact ⟨s.adA, s.adB, rfl⟩
  · rename_i sl _
    cases sl with
    | a => exact ⟨_, s.adB, rfl⟩
    | b => exact ⟨s.adA, _, rfl⟩

theorem initTimer_frame (a : InitArgs) (s : State) :
    ∃ t0 t1, initTimer a s = { s with tmr0 := t0, tmr1 := t1 } := by
  unfold initTimer
  split
  · exact ⟨s.tmr0, s.tmr1, rfl⟩
  · rename_i c _
    cases c with
    | ch0 => exact ⟨_, s.tmr1, rfl⟩
    | ch1 => exact ⟨s.tmr0, _, rfl⟩

/-- The whole of `INIT` (43_control_loop.md R127). -/
theorem execTimes_init (hbg : s.bg = .exec .first) (hpresent : allPresent a = true) (hadc : s.gateAdc = true)
    (htmr : chanOf a.tIndex ≠ none → s.gateTmr = true) :
    execTimes (.init a)
        (11 + (if slotOf a.sSlot = none then 0 else 1) + (if chanOf a.tIndex = none then 0 else 2)) s =
      .next (respond (initStatus (slotStatus a s.cfg) (timerStatus a)) 0#32
        { initStages a s with cb := (initStages a s).cfg.cbTick }) := by
  have hslot := execTimes_init_slot (a := a) (s := initClocks a s) hadc
  have htimer := execTimes_init_timer (a := a)
    (s := note (slotStatus a s.cfg) (initSlot a (writeLoopConfig a (initClocks a s))))
    (fun hne => by
      obtain ⟨vA, vB, e⟩ := initSlot_frame a (writeLoopConfig a (initClocks a s))
      rw [e]
      exact htmr hne) (slotStatus a s.cfg)
  rw [show ∀ x y : Nat, 11 + x + y = 5 + (3 + x + (2 + y + 1)) by omega,
    execTimes_add _ (execTimes_init_clocks hbg hpresent hadc), execTimes_add _ hslot]
  refine (execTimes_add _ htimer).trans ?_
  rw [execTimes_one]
  exact exec_init_callback _ _

theorem conv_initSlot (a : InitArgs) (s : State) (sl : Slot) :
    (initSlot a s).conv sl = if slotOf a.sSlot = some sl then
      { s.conv sl with ien := a.sIen, diff := a.sDiff }.start (BitVec.ofNat 5 (resolve s.cfg a.sCode a.sDiff))
      else s.conv sl := by
  unfold initSlot
  cases slotOf a.sSlot with
  | none => rfl
  | some sm => by_cases h : sl = sm <;> simp [h, eq_comm]

theorem timer_initTimer (a : InitArgs) (s : State) (c : Chan) :
    (initTimer a s).timer c = if chanOf a.tIndex = some c then
      { s.timer c with load := a.tLoad, en := a.tEnabled, ie := a.tIe, chn := a.tChained } else s.timer c := by
  unfold initTimer
  cases chanOf a.tIndex with
  | none => rfl
  | some d => by_cases h : c = d <;> simp [h, eq_comm]

/-- The response repeats one of the two statuses noted before. -/
theorem or_stickyBit_initStatus (e : BitVec 7) (s1 s2 : Status) :
    e ||| stickyBit s1 ||| stickyBit s2 ||| stickyBit (initStatus s1 s2) = e ||| stickyBit s1 ||| stickyBit s2 := by
  unfold initStatus
  split
  · rw [BitVec.or_assoc, BitVec.or_self]
  · rw [BitVec.or_assoc, BitVec.or_comm (stickyBit s2), ← BitVec.or_assoc, BitVec.or_assoc e, BitVec.or_self]

theorem conv_initStages (a : InitArgs) (s : State) (sl : Slot) :
    (initStages a s).conv sl = (initSlot a (writeLoopConfig a (initClocks a s))).conv sl := by
  obtain ⟨t0, t1, e⟩ := initTimer_frame a (note (slotStatus a s.cfg) (initSlot a (writeLoopConfig a (initClocks a s))))
  rw [initStages, e]
  rfl

theorem timer_initStages (a : InitArgs) (s : State) (c : Chan) :
    (initStages a s).timer c = if chanOf a.tIndex = some c then
      { s.timer c with load := a.tLoad, en := a.tEnabled, ie := a.tIe, chn := a.tChained } else s.timer c := by
  obtain ⟨vA, vB, e⟩ := initSlot_frame a (writeLoopConfig a (initClocks a s))
  rw [initStages, timer_note, timer_initTimer, e]
  rfl

end

/-- Settles O45: the stages in a row; what they leave is read slot by slot, channel by channel, and as a frame. -/
theorem initRunsEveryStage : Obligations.InitRunsEveryStage := by
  rintro a s hbg hpresent hadc htmr _ _ rfl rfl
  refine ⟨_, execTimes_init hbg hpresent hadc htmr, fun sl => ?_, fun c => ?_, ?_⟩
  · rw [conv_respond]
    refine (conv_initStages a s sl).trans ?_
    rw [conv_initSlot]
    simp only [writeLoopConfig, initClocks, start_resolve]
    rfl
  · rw [timer_respond]
    exact timer_initStages a s c
  · obtain ⟨vA, vB, hslot⟩ := initSlot_frame a (writeLoopConfig a (initClocks a s))
    obtain ⟨t0, t1, htimer⟩ := initTimer_frame a (note (slotStatus a s.cfg)
      { writeLoopConfig a (initClocks a s) with adA := vA, adB := vB })
    rw [initStages, hslot, htimer]
    simp only [respond, note, writeLoopConfig, initClocks, or_stickyBit_initStatus]
    rfl

end Sys2Proof.Machine
end

section
/-! PROOFS. The turns of the interrupt context (60_exceptions.md R137 to R152), one by one and in a whole dispatch: a
dispatch works on two flags, a count of ticks and a position, and its lines are computed on these alone. -/

namespace Sys2Proof.Machine

open Sys2Proof

/-! ### What a turn outside the background context leaves -/

/-- Settles O56: of all that a turn can do, a turn of the interrupt context is a `DispatchTurn`. -/
theorem interruptContextFrame : Obligations.InterruptContextFrame := by
  intro s t hturn hstep
  have heffect := turnEffect_step hstep
  rw [hturn] at heffect
  cases heffect with
  | dispatch h => exact h.frame

/-- The position of the interrupt context changes in a `DispatchTurn` or at reset. -/
theorem TurnEffect.isr {s t : State} {x : Turn} (h : TurnEffect s x t) :
    (t.isr = s.isr ∧ x ≠ .interrupt) ∨ t.isr = .none ∨ DispatchTurn s x t := by
  cases h with
  | accept hbg => rw [(acceptNext_frame s).1]; exact .inl ⟨rfl, nofun⟩
  | micro hbg hisr hkept => exact .inl ⟨hkept.isr, nofun⟩
  | blocked => exact .inl ⟨rfl, nofun⟩
  | dispatch h => exact .inr (.inr h)
  | complete => exact .inl ⟨by simp, nofun⟩
  | setGate => exact .inl ⟨by simp, nofun⟩
  | reset => exact .inr (.inl rfl)

theorem spuriousTurn_of_dispatch {s : State} (hisr : s.isr ≠ .none) : spuriousTurn s = .ok s :=
  if_neg fun h => hisr h.1

theorem step_spurious_of_dispatch {s : State} (hisr : s.isr ≠ .none) (hturn : nextTurn s = .spurious) :
    step s = .next (afterTurn s) := by
  rw [step_spurious hturn, spuriousTurn_of_dispatch (s := afterTurn s) hisr, finish_ok]

theorem step_background_of_dispatch {s : State} (hisr : s.isr ≠ .none) (hbg : s.bg ≠ .idle)
    (hturn : nextTurn s = .background) : step s = .next (afterTurn s) := by
  rw [step_background hturn, backgroundTurn_of_dispatch (s := afterTurn s) hisr hbg]

/-- Settles O57: the turns of a dispatch one by one; no `DispatchTurn` nests. -/
theorem dispatchExcludesBackgroundAndNesting : Obligations.DispatchExcludesBackgroundAndNesting := by
  intro s hisr
  refine ⟨fun hturn hbg => step_background_of_dispatch hisr hbg hturn, fun hturn hbg => ?_,
    step_spurious_of_dispatch hisr, fun t hstep => ?_⟩
  · obtain ⟨hframe, hpos⟩ := acceptNext_frame (afterTurn s)
    exact ⟨_, step_of_idle hturn hbg, hpos.imp_left (·.trans hbg), hframe⟩
  · by_cases hline : t.isr = .line1
    · refine .inr ?_
      obtain ⟨hsame, hx⟩ | hnone | hdispatch := (turnEffect_step hstep).isr
      · exact ⟨hsame.symm.trans hline, hx⟩
      · exact nomatch hline.symm.trans hnone
      · exact hdispatch.nesting hisr hline
    · exact .inl hline

/-! ### Entry, expiry, and the wait for a handler -/

theorem irqLine_iff (s : State) :
    irqLine s = true ↔ (s.tmr0.flag = true ∧ s.tmr0.ie = true) ∨ (s.tmr1.flag = true ∧ s.tmr1.ie = true) := by
  simp only [irqLine, Bool.or_eq_true, Bool.and_eq_true]

theorem interruptTurn_of_lowLine {s : State} (hisr : s.isr = .none) (hlow : irqLine s ≠ true) :
    interruptTurn s = .ok s := by
  rw [interruptTurn, if_pos hisr, if_neg hlow]

/-- Settles O48: the entry is the position alone, and only a `DispatchTurn` makes it. -/
theorem interruptEntryTouchesNothing : Obligations.InterruptEntryTouchesNothing := by
  refine ⟨fun s hturn hisr hup => ?_, fun s t hstep hisr hentered => ?_⟩
  · rw [← irqLine_iff, step_interrupt hturn]
    refine ⟨fun hline => ?_, fun hlow => ?_⟩
    · rw [interruptTurn_of_irqLine (s := afterTurn s) hisr hline hup]
      rfl
    · rw [interruptTurn_of_lowLine (s := afterTurn s) hisr hlow]
      rfl
  · rw [← irqLine_iff]
    obtain ⟨hsame, -⟩ | hnone | hdispatch := (turnEffect_step hstep).isr
    · exact absurd (hsame.trans hisr) hentered
    · exact absurd hnone hentered
    · exact hdispatch.entry hisr hentered

theorem step_timerExpire {s : State} {c : Chan} (h : nextTurn s = .timerExpire c) :
    step s = .next (timerExpire c (afterTurn s)) := by
  rw [step_eq_takeTurn, h]
  rfl

theorem timerExpire_of_enabled {s : State} {c : Chan} (hup : s.gateTmr = true) (hen : (s.timer c).en = true) :
    timerExpire c s = s.setTimer c { s.timer c with flag := true } :=
  if_pos ⟨hup, hen⟩

/-- Settles O49: the event is `timerExpire`, whose two conditions are the gate and a running channel. -/
theorem timerExpireSetsFlag : Obligations.TimerExpireSetsFlag := by
  intro s c hturn
  have htimer : (afterTurn s).timer c = s.timer c := by cases c <;> rfl
  rw [step_timerExpire hturn]
  refine ⟨fun hup hen => ?_, fun hdisabled => congrArg _ (if_neg ?_)⟩
  · rw [timerExpire_of_enabled (s := afterTurn s) hup (by rwa [htimer]), htimer]
    cases c <;> rfl
  · rw [htimer]
    rintro ⟨hup, hen⟩
    obtain hdown | hstopped := hdisabled
    · exact nomatch hdown.symm.trans hup
    · exact nomatch hstopped.symm.trans hen

/-- A line of the dispatch in progress. -/
theorem step_dispatch {s t : State} (hturn : nextTurn s = .interrupt) (hisr : s.isr ≠ .none)
    (hline : dispatchStep (afterTurn s) = .ok t) : step s = .next t := by
  rw [step_interrupt hturn, interruptTurn_of_dispatch (s := afterTurn s) hisr, hline, finish_ok]

theorem invoke_of_external {s : State} (hzero : s.cb ≠ 0#32) (htick : s.cb ≠ s.cfg.cbTick) :
    invoke s = { s with isr := .waiting s.cb } := by
  rw [invoke, if_neg hzero, if_neg htick]

theorem dispatchStep_of_waiting {s : State} {h : Word} (hisr : s.isr = .waiting h) : dispatchStep s = .ok s := by
  simp only [dispatchStep, hisr]

/-- Settles O52: line 6, the wait, the host's turn and line 7, one by one. -/
theorem externalHandlerIsAwaited : Obligations.ExternalHandlerIsAwaited := by
  intro s
  refine ⟨fun hisr hturn hzero htick => ?_, fun h hisr hturn => ?_, fun h hisr hturn => ?_, fun hisr hturn => ?_⟩
  · refine step_dispatch hturn (by rw [hisr]; nofun) ?_
    simp only [dispatchStep, afterTurn_isr, hisr]
    exact congrArg Except.ok (invoke_of_external (s := afterTurn s) hzero htick)
  · have hdispatch : s.isr ≠ .none := by rw [hisr]; nofun
    obtain hturn | ⟨hturn, hbg⟩ | hturn := hturn
    · exact step_dispatch hturn hdispatch (dispatchStep_of_waiting (s := afterTurn s) hisr)
    · exact step_background_of_dispatch hdispatch hbg hturn
    · exact step_spurious_of_dispatch hdispatch hturn
  · rw [step_eq_takeTurn, hturn]
    simp only [takeTurn, handlerReturn, afterTurn_isr, hisr]
    rfl
  · refine step_dispatch hturn (by rw [hisr]; nofun) ?_
    simp only [dispatchStep, afterTurn_isr, hisr]
    rfl

/-! ### A dispatch, on what it works on alone -/

/-- What a dispatch with the tick handler, or with no callback, works on. -/
structure DispatchView where
  flag0 : Bool
  flag1 : Bool
  ticks : Nat
  isr : Isr

namespace DispatchView

/-- The view put into a state, with the turns still to come. -/
def place (d : DispatchView) (ts : List Turn) (s : State) : State :=
  { s with
    tmr0 := { s.tmr0 with flag := d.flag0 }
    tmr1 := { s.tmr1 with flag := d.flag1 }
    tick := if s.cb = 0#32 then s.tick else BitVec.ofNat 7 ((s.tick.toNat + d.ticks) % 100)
    isr := d.isr
    turns := ts }

/-- The event `TimerExpire(c)` of a running channel. -/
def expire (c : Chan) (d : DispatchView) : DispatchView :=
  match c with
  | .ch0 => { d with flag0 := true }
  | .ch1 => { d with flag1 := true }

/-- A turn of the interrupt context (60_exceptions.md R141); `ie0` and `ie1` are the interrupt enables. -/
def interrupt (ie0 ie1 : Bool) (d : DispatchView) : DispatchView :=
  match d.isr with
  | .none => if (d.flag0 && ie0 || d.flag1 && ie1) = true then { d with isr := .line1 } else d
  | .line1 => { d with isr := .line2 d.flag0 }
  | .line2 f0 => { d with isr := .line3 f0 d.flag1 }
  | .line3 f0 f1 => if f0 = true then { d with flag0 := false, isr := .line4 f0 f1 } else { d with isr := .line4 f0 f1 }
  | .line4 f0 f1 => if f1 = true then { d with flag1 := false, isr := .line5 f0 f1 } else { d with isr := .line5 f0 f1 }
  | .line5 f0 f1 =>
    if f0 = false ∧ f1 = false then { d with flag0 := false, isr := .line5b } else { d with isr := .line6 }
  | .line5b => { d with flag1 := false, isr := .line6 }
  | .line6 => { d with ticks := d.ticks + 1, isr := .line7 }
  | .waiting _ => d
  | .line7 => { d with isr := .none }

/-- Several turns of the interrupt context in a row. -/
def interrupts (ie0 ie1 : Bool) : Nat → DispatchView → DispatchView
  | 0, d => d
  | n + 1, d => interrupts ie0 ie1 n (d.interrupt ie0 ie1)

/-- A state outside a dispatch is its own view. -/
theorem place_self {s : State} (htick : s.tick.toNat < 100) :
    place ⟨s.tmr0.flag, s.tmr1.flag, 0, s.isr⟩ s.turns s = s := by
  have hsame : BitVec.ofNat 7 ((s.tick.toNat + 0) % 100) = s.tick := by
    rw [Nat.add_zero, Nat.mod_eq_of_lt htick, BitVec.ofNat_toNat, BitVec.setWidth_eq]
  simp only [place, hsame, ite_self]

/-! A whole dispatch from line 1, from the entry, and with an expiry in it. -/

variable (ie0 ie1 : Bool)

/-- A flag that is read as 1 saves the two micro-steps of line 5 one. -/
theorem interrupts_flagged {f0 f1 : Bool} (k : Nat) (h : (f0 || f1) = true) :
    interrupts ie0 ie1 7 ⟨f0, f1, k, .line1⟩ = ⟨false, false, k + 1, .none⟩ := by
  cases f0
  · cases f1
    · cases h
    · rfl
  · cases f1 <;> rfl

theorem interrupts_spurious (k : Nat) :
    interrupts ie0 ie1 8 ⟨false, false, k, .line1⟩ = ⟨false, false, k + 1, .none⟩ := rfl

theorem interrupt_entry {ie0 ie1 f0 f1 : Bool} (k : Nat) (h : (f0 && ie0 || f1 && ie1) = true) :
    interrupt ie0 ie1 ⟨f0, f1, k, .none⟩ = ⟨f0, f1, k, .line1⟩ :=
  if_pos h

theorem flagged_of_line {ie0 ie1 f0 f1 : Bool} (h : (f0 && ie0 || f1 && ie1) = true) : (f0 || f1) = true := by
  simp only [Bool.or_eq_true, Bool.and_eq_true] at h ⊢
  exact h.imp And.left And.left

/-- From the entry at a high line to the return. -/
theorem interrupts_dispatch {ie0 ie1 f0 f1 : Bool} (k : Nat) (h : (f0 && ie0 || f1 && ie1) = true) :
    interrupts ie0 ie1 8 ⟨f0, f1, k, .none⟩ = ⟨false, false, k + 1, .none⟩ := by
  rw [interrupts, interrupt_entry k h, interrupts_flagged _ _ k (flagged_of_line h)]

/-- Both flags read as 0: an expiry before the defensive write is lost (60_exceptions.md R142). -/
theorem interrupts_lost {c : Chan} {n : Nat} (hread : flagReadAt c ≤ n) (hdefend : n < flagDefendAt c) :
    interrupts ie0 ie1 (8 - n) ((interrupts ie0 ie1 n ⟨false, false, 0, .line1⟩).expire c) =
      ⟨false, false, 1, .none⟩ := by
  cases c <;> simp only [flagReadAt, flagDefendAt] at hread hdefend <;> interval_cases n <;> rfl

/-- The flag of one channel. -/
def flag (d : DispatchView) : Chan → Bool
  | .ch0 => d.flag0
  | .ch1 => d.flag1

/-- The view outside a dispatch with one channel's flag at a level and the other's at 0. -/
def pending (c : Chan) (b : Bool) : DispatchView :=
  match c with
  | .ch0 => ⟨b, false, 1, .none⟩
  | .ch1 => ⟨false, b, 1, .none⟩

/-- A flag read as 1: the expiry of a channel read as 0 survives, that of a channel read as 1 survives when it comes
after the clear. -/
theorem interrupts_late {c : Chan} {n : Nat} {f0 f1 : Bool} (hread : flagReadAt c ≤ n) (hn : n ≤ 7)
    (h : (f0 || f1) = true) :
    interrupts ie0 ie1 (7 - n) ((interrupts ie0 ie1 n ⟨f0, f1, 0, .line1⟩).expire c) =
      pending c (!flag ⟨f0, f1, 0, .line1⟩ c || decide (flagClearAt c ≤ n)) := by
  cases f0
  · cases f1
    · cases h
    · cases c <;> simp only [flagReadAt] at hread <;> interval_cases n <;> rfl
  · cases f1 <;> cases c <;> simp only [flagReadAt] at hread <;> interval_cases n <;> rfl

end DispatchView

/-! ### The model does to the state what it does to the view -/

open DispatchView

section
variable {s : State} (hup : s.gateTmr = true) (hcb : s.cb = 0#32 ∨ s.cb = s.cfg.cbTick)

theorem cbTick_ne_zero (cfg : Config) : cfg.cbTick ≠ 0#32 := cfg.legal.2.2.2.2.2.2.2.2

/-- The tick handler on a count modulo 100 (60_exceptions.md R144). -/
theorem tick_wrap (t : Nat) :
    (if (BitVec.ofNat 7 (t % 100)).toNat + 1 = 100 then 0#7 else BitVec.ofNat 7 ((BitVec.ofNat 7 (t % 100)).toNat + 1)) =
      BitVec.ofNat 7 ((t + 1) % 100) := by
  have hcount : (BitVec.ofNat 7 (t % 100)).toNat = t % 100 := by
    rw [BitVec.toNat_ofNat]
    omega
  rw [hcount]
  split
  · rw [show (t + 1) % 100 = 0 by omega]
  · rw [show (t + 1) % 100 = t % 100 + 1 by omega]

include hcb in
theorem invoke_place (f0 f1 : Bool) (k : Nat) (ts : List Turn) :
    invoke (place ⟨f0, f1, k, .line6⟩ ts s) = place ⟨f0, f1, k + 1, .line7⟩ ts s := by
  obtain hzero | htick := hcb
  · rw [invoke, if_pos (by exact hzero)]
    simp only [place, if_pos hzero]
  · have hnonzero : s.cb ≠ 0#32 := htick ▸ cbTick_ne_zero s.cfg
    rw [invoke, if_neg (by exact hnonzero), if_pos (by exact htick)]
    simp only [place, tickHandler, if_neg hnonzero, tick_wrap, Nat.add_assoc]

include hup hcb in
theorem interruptTurn_place (d : DispatchView) (ts : List Turn) :
    interruptTurn (d.place ts s) = .ok ((d.interrupt s.tmr0.ie s.tmr1.ie).place ts s) := by
  obtain ⟨f0, f1, k, pos⟩ := d
  have hup' : ∀ d : DispatchView, (d.place ts s).gateTmr = true := fun _ => hup
  cases pos with
  | none =>
    by_cases hline : (f0 && s.tmr0.ie || f1 && s.tmr1.ie) = true
    · rw [interrupt_entry k hline]
      exact interruptTurn_of_irqLine rfl hline (hup' _)
    · rw [interruptTurn_of_lowLine rfl (by exact hline)]
      exact congrArg (fun d => Except.ok (place d ts s)) (if_neg hline).symm
  | line1 | line2 =>
    rw [interruptTurn_of_dispatch (by nofun)]
    exact gatedTmr_of_up (hup' _) _
  | line5b =>
    rw [interruptTurn_of_dispatch (by nofun), dispatchStep, clearFlag_ch1]
    exact gatedTmr_of_up (hup' _) _
  | line3 g0 g1 =>
    rw [interruptTurn_of_dispatch (by nofun), dispatchStep, clearFlag_ch0]
    cases g0
    · rfl
    · exact gatedTmr_of_up (hup' _) _
  | line4 g0 g1 =>
    rw [interruptTurn_of_dispatch (by nofun), dispatchStep, clearFlag_ch1]
    cases g1
    · rfl
    · exact gatedTmr_of_up (hup' _) _
  | line5 g0 g1 =>
    rw [interruptTurn_of_dispatch (by nofun), dispatchStep, clearFlag_ch0]
    cases g0
    · cases g1
      · exact gatedTmr_of_up (hup' _) _
      · rfl
    · rfl
  | line6 => exact congrArg Except.ok (invoke_place hcb f0 f1 k ts)
  | waiting | line7 => rfl

include hup hcb in
/-- `n` turns of the interrupt context. -/
theorem run_interrupts (n : Nat) (d : DispatchView) (ts : List Turn) :
    core.run n (d.place (List.replicate n .interrupt ++ ts) s) =
      .next ((interrupts s.tmr0.ie s.tmr1.ie n d).place ts s) := by
  induction n generalizing d with
  | zero => rfl
  | succ n ih =>
    rw [List.replicate_succ, List.cons_append, run_succ (t := place _ (List.replicate n .interrupt ++ ts) s)]
    · exact ih _
    · rw [step_of_turns rfl]
      exact congrArg finish (interruptTurn_place hup hcb d _)

include hup in
/-- An expiry of a running channel. -/
theorem step_expire {c : Chan} (hen : (s.timer c).en = true) (d : DispatchView) (ts : List Turn) :
    step (d.place (.timerExpire c :: ts) s) = .next ((d.expire c).place ts s) := by
  rw [step_of_turns rfl]
  cases c <;> exact congrArg Host.Outcome.next (timerExpire_of_enabled (s := d.place ts s) hup hen)

include hup in
/-- The event `Spurious`, where it may occur. -/
theorem step_spurious_entry (hallow : s.cfg.allowSpurious = true) (f0 f1 : Bool) (k : Nat) (ts : List Turn) :
    step (place ⟨f0, f1, k, .none⟩ (.spurious :: ts) s) = .next (place ⟨f0, f1, k, .line1⟩ ts s) := by
  rw [step_of_turns rfl, takeTurn, spuriousTurn, if_pos ⟨rfl, hallow⟩, takeInterrupt, gatedTmr_of_up (by exact hup)]
  rfl

end

/-- A state outside a dispatch, as its own view. -/
theorem eq_place {s : State} {ts : List Turn} (hisr : s.isr = .none) (htick : s.tick.toNat < 100)
    (hturns : s.turns = ts) : s = place ⟨s.tmr0.flag, s.tmr1.flag, 0, .none⟩ ts s := by
  rw [← hisr, ← hturns, place_self htick]

/-- A view after the dispatch, with the tick handler registered. -/
theorem place_of_cbTick {s : State} (hisr : s.isr = .none) (hcb : s.cb = s.cfg.cbTick) (f0 f1 : Bool) (k : Nat)
    (ts : List Turn) :
    place ⟨f0, f1, k, .none⟩ ts s = { s with
      tmr0 := { s.tmr0 with flag := f0 }, tmr1 := { s.tmr1 with flag := f1 }
      tick := BitVec.ofNat 7 ((s.tick.toNat + k) % 100), turns := ts } := by
  have hnonzero : s.cb ≠ 0#32 := hcb ▸ cbTick_ne_zero s.cfg
  simp only [place, if_neg hnonzero, hisr]

/-- The same when the flags were 0 before. -/
theorem place_unflagged {s : State} (hisr : s.isr = .none) (hcb : s.cb = s.cfg.cbTick) (h0 : s.tmr0.flag = false)
    (h1 : s.tmr1.flag = false) (k : Nat) (ts : List Turn) :
    place ⟨false, false, k, .none⟩ ts s = { s with
      tick := BitVec.ofNat 7 ((s.tick.toNat + k) % 100), turns := ts } := by
  have hsame0 : { s.tmr0 with flag := false } = s.tmr0 := by rw [← h0]
  have hsame1 : { s.tmr1 with flag := false } = s.tmr1 := by rw [← h1]
  rw [place_of_cbTick hisr hcb, hsame0, hsame1]

/-! ### Whole dispatches -/

/-- Settles O50: eight turns of the interrupt context from a high line. -/
theorem dispatchClearsFlagsAndTicksOnce : Obligations.DispatchClearsFlagsAndTicksOnce := by
  intro s rest hisr hup hline hcb htick hturns
  calc core.run 8 s
    _ = core.run 8 (place ⟨s.tmr0.flag, s.tmr1.flag, 0, .none⟩ (List.replicate 8 .interrupt ++ rest) s) :=
      congrArg _ (eq_place hisr htick hturns)
    _ = .next (place ⟨false, false, 1, .none⟩ rest s) := by
      rw [run_interrupts hup hcb, interrupts_dispatch 0 hline]
    _ = _ := by simp only [place, hisr]

/-- Settles O51: the spurious entry and eight turns, with the two expiries after the reads or without. -/
theorem spuriousFiringCountsOneTick : Obligations.SpuriousFiringCountsOneTick := by
  intro s rest hisr htick
  refine ⟨fun hallow hup h0 h1 hcb hturns => ?_, fun hallow hup h0 h1 hen0 hen1 hcb hturns => ?_,
    fun hallow hturns => ?_⟩
  · have hs := eq_place hisr htick hturns
    rw [h0, h1] at hs
    calc core.run 9 s
      _ = core.run 8 (place ⟨false, false, 0, .line1⟩ (List.replicate 8 .interrupt ++ rest) s) := by
        conv_lhs => rw [hs]
        exact run_succ (step_spurious_entry hup hallow _ _ _ _)
      _ = .next (place ⟨false, false, 1, .none⟩ rest s) := by
        rw [run_interrupts hup (.inr hcb), interrupts_spurious]
      _ = _ := by rw [place_unflagged hisr hcb h0 h1]
  · have hs := eq_place hisr htick hturns
    rw [h0, h1] at hs
    have hflags := calc core.run 5 s
      _ = core.run (2 + 2) (place ⟨false, false, 0, .line1⟩ (List.replicate 2 .interrupt ++
            .timerExpire .ch0 :: .timerExpire .ch1 :: (List.replicate 6 .interrupt ++ rest)) s) := by
        conv_lhs => rw [hs]
        exact run_succ (step_spurious_entry hup hallow _ _ _ _)
      _ = core.run 2 (place ⟨false, false, 0, .line3 false false⟩
            (.timerExpire .ch0 :: .timerExpire .ch1 :: (List.replicate 6 .interrupt ++ rest)) s) :=
        run_add _ _ _ _ (run_interrupts hup (.inr hcb) 2 _ _)
      _ = core.run 1 (place ⟨true, false, 0, .line3 false false⟩
            (.timerExpire .ch1 :: (List.replicate 6 .interrupt ++ rest)) s) :=
        run_succ (step_expire (c := .ch0) hup hen0 _ _)
      _ = .next (place ⟨true, true, 0, .line3 false false⟩ (List.replicate 6 .interrupt ++ rest) s) :=
        run_succ (step_expire (c := .ch1) hup hen1 _ _)
    refine ⟨⟨_, hflags, rfl, rfl⟩, ?_⟩
    calc core.run 11 s
      _ = core.run 6 (place ⟨true, true, 0, .line3 false false⟩ (List.replicate 6 .interrupt ++ rest) s) :=
        run_add 5 6 _ _ hflags
      _ = .next (place ⟨false, false, 1, .none⟩ rest s) := run_interrupts hup (.inr hcb) 6 _ _
      _ = _ := by rw [place_unflagged hisr hcb h0 h1]
  · have hdisabled : ¬(s.isr = .none ∧ s.cfg.allowSpurious = true) := by simp [hallow]
    rw [step_of_turns hturns, takeTurn, spuriousTurn, if_neg (by exact hdisabled), finish_ok]

/-- `n` invocations of the tick handler. -/
theorem tickHandler_iterate {s : State} (htick : s.tick.toNat < 100) (n : Nat) :
    tickHandler^[n] s = { s with tick := BitVec.ofNat 7 ((s.tick.toNat + n) % 100) } := by
  induction n with
  | zero =>
    rw [Function.iterate_zero_apply, Nat.add_zero, Nat.mod_eq_of_lt htick, BitVec.ofNat_toNat, BitVec.setWidth_eq]
  | succ n ih =>
    rw [Function.iterate_succ_apply', ih]
    simp only [tickHandler, tick_wrap, Nat.add_assoc]

/-- One expiry of an armed channel and the dispatch it causes. -/
theorem run_expiryDispatch {s : State} {c : Chan} (hup : s.gateTmr = true) (hcb : s.cb = 0#32 ∨ s.cb = s.cfg.cbTick)
    (hen : (s.timer c).en = true) (hie : (s.timer c).ie = true) (k : Nat) (ts : List Turn) :
    core.run 9 (place ⟨false, false, k, .none⟩ (.timerExpire c :: List.replicate 8 .interrupt ++ ts) s) =
      .next (place ⟨false, false, k + 1, .none⟩ ts s) := by
  rw [List.cons_append, run_succ (step_expire hup hen _ _), run_interrupts hup hcb]
  cases c <;>
    exact congrArg (fun d => Host.Outcome.next (place d ts s)) (interrupts_dispatch k (by simpa [State.timer] using hie))

theorem run_expiryDispatches {s : State} {c : Chan} (hup : s.gateTmr = true)
    (hcb : s.cb = 0#32 ∨ s.cb = s.cfg.cbTick) (hen : (s.timer c).en = true) (hie : (s.timer c).ie = true) (n k : Nat)
    (ts : List Turn) :
    core.run (9 * n) (place ⟨false, false, k, .none⟩
        ((List.replicate n (Turn.timerExpire c :: List.replicate 8 .interrupt)).flatten ++ ts) s) =
      .next (place ⟨false, false, k + n, .none⟩ ts s) := by
  induction n generalizing k with
  | zero => rfl
  | succ n ih =>
    rw [List.replicate_succ, List.flatten_cons, List.append_assoc, Nat.mul_succ, Nat.add_comm (9 * n),
      run_add _ _ _ _ (run_expiryDispatch hup hcb hen hie k _), ih (k + 1), Nat.add_right_comm, Nat.add_assoc k]

/-- Settles O53: by induction on the invocations, and on the dispatches. -/
theorem tickIsCyclic : Obligations.TickIsCyclic := by
  refine ⟨fun s n htick => tickHandler_iterate htick n, fun s c n rest hisr hup hen hie h0 h1 hcb htick hturns => ?_⟩
  have hs := eq_place hisr htick hturns
  rw [h0, h1] at hs
  conv_lhs => rw [hs]
  rw [run_expiryDispatches hup (.inr hcb) hen hie, Nat.zero_add, place_unflagged hisr hcb h0 h1]

/-! ### An expiry in a dispatch -/

/-- From line 1, with an expiry after `n` micro-steps and `m` after it. -/
theorem run_expiryWithin {s : State} {c : Chan} (hup : s.gateTmr = true) (hcb : s.cb = 0#32 ∨ s.cb = s.cfg.cbTick)
    (hen : (s.timer c).en = true) (n m : Nat) (d : DispatchView) (ts : List Turn) :
    core.run (n + (m + 1)) (d.place (List.replicate n .interrupt ++
        .timerExpire c :: (List.replicate m .interrupt ++ ts)) s) =
      .next ((interrupts s.tmr0.ie s.tmr1.ie m ((interrupts s.tmr0.ie s.tmr1.ie n d).expire c)).place ts s) := by
  rw [run_add _ _ _ _ (run_interrupts hup hcb n d _), run_succ (step_expire hup hen _ _), run_interrupts hup hcb]

/-- Settles O58: the expiry within the dispatch, computed on the view. -/
theorem lateExpiryIsLostKeptOrMerged : Obligations.LateExpiryIsLostKeptOrMerged := by
  intro s c n rest hisr hup hen hcb htick hread
  refine ⟨fun hallow h0 h1 hdefend hturns => ?_, fun hline hn hturns => ?_⟩
  · have hs := eq_place hisr htick hturns
    rw [h0, h1] at hs
    have hn : n ≤ 8 := by cases c <;> simp only [flagDefendAt] at hdefend <;> omega
    conv_lhs => rw [hs]
    rw [run_succ (step_spurious_entry hup hallow _ _ _ _), show 9 = n + (8 - n + 1) by omega,
      run_expiryWithin hup (.inr hcb) hen, interrupts_lost _ _ hread hdefend, place_unflagged hisr hcb h0 h1]
  · have hs := eq_place hisr htick hturns
    have hentry : step s = .next (place ⟨s.tmr0.flag, s.tmr1.flag, 0, .line1⟩ (List.replicate n .interrupt ++
        .timerExpire c :: (List.replicate (7 - n) .interrupt ++ rest)) s) := by
      conv_lhs => rw [hs]
      exact step_interrupt_of_irqLine (s := place ⟨s.tmr0.flag, s.tmr1.flag, 0, .none⟩ [] s) rfl hline hup _
    rw [run_succ hentry, show 8 = n + (7 - n + 1) by omega, run_expiryWithin hup (.inr hcb) hen,
      interrupts_late _ _ hread hn (flagged_of_line hline)]
    cases c <;> exact congrArg Host.Outcome.next (place_of_cbTick hisr hcb _ _ _ _)

end Sys2Proof.Machine
end
